-- ==== Sys2Proof/Word.lean ====
section
/-! DEFINITION. The words of the block: bytes, sequence numbers, receive-port transfers, frames and tags. -/

namespace Sys2Proof

/-- A byte, an unsigned value 0 to 255 (R10). -/
abbrev Byte := BitVec 8

/-- A sequence number, and so the index of a slot of the acknowledgement table (R30, R52). -/
abbrev SeqNum := BitVec 8

/-- One transfer of the receive port: `rx_last` in bit 8 above `rx_data[7:0]` (R83, R93). -/
abbrev RxTransfer := BitVec 9

/-- A frame or any other byte sequence, first byte first (R11, R71). -/
abbrev Frame := List Byte

/-- What a filled slot holds (R34, D9): an opaque token that the block stores and hands back and never
interprets. A token is named by a number; `Tag.fits` says that it has the open width `TAG_W`, a parameter (log entry 2,
DESIGN CHOICE). That no operation looks into it is the statement `TagsAreNeverInterpreted`. -/
structure Tag where
  token : Nat
  deriving DecidableEq, Repr

end Sys2Proof
end

