-- ==== Sys2Proof/Config.lean ====
section
/-! DEFINITION. The parameters of the block (R8), fixed for the machine, and the one open value outside it. -/

namespace Sys2Proof

/-- The parameters of R8. A parameter with a source value has it as its default; the two that are OPEN have none.
`FRMQ_DEPTH` is decided: unbounded (D13). The conditions are what the rules use of a parameter without naming it (log
entry 26). -/
structure Config where
  /-- `LEN_MIN`, the smallest legal length byte. -/
  lenMin : Nat := 4
  /-- `LEN_MAX`, the largest legal length byte. -/
  lenMax : Nat := 36
  /-- `SEQ_MOD`, the modulus of the sequence counter. -/
  seqMod : Nat := 256
  /-- `SLOTS`, the number of slots of the acknowledgement table. -/
  slots : Nat := 256
  /-- `SEQ_INIT`, the counter's value after reset: the spec's own decision D6 (log entry 6). -/
  seqInit : SeqNum := 0
  /-- `ACK_TYPE`, OPEN: the type byte that marks an acknowledgement (D10, log entry 1). -/
  ackType : Byte
  /-- `TAG_W`, OPEN: the width of a tag in bits (D9, log entry 2). -/
  tagWidth : Nat
  /-- Every frame has the bytes that the router reads (R164). -/
  fieldsFit : 4 ≤ lenMin := by decide
  /-- The counter has a value. -/
  seqMod_pos : 0 < seqMod := by decide
  /-- The counter is 8 bits wide (R30). -/
  seqMod_le : seqMod ≤ 256 := by decide
  /-- `SEQ_INIT` is a value of the counter. -/
  seqInit_lt : seqInit.toNat < seqMod := by decide
  /-- Every 8-bit index names a slot (R52); with `seqMod_le`, `SEQ_MOD <= SLOTS` (R8). -/
  indexed : 256 ≤ slots := by decide
  deriving DecidableEq, Repr

namespace Config

/-- `FRAME_MIN`, the smallest frame in bytes (R8). -/
def frameMin (cfg : Config) : Nat := cfg.lenMin + 1

/-- `FRAME_MAX`, the largest frame in bytes (R8). -/
def frameMax (cfg : Config) : Nat := cfg.lenMax + 1

/-- The length range has its source values. The twelve rows of the length-byte table are written out for these only
(R77, R93; log entry 27). -/
def sourceLengths (cfg : Config) : Bool := cfg.lenMin == 4 && cfg.lenMax == 36

/-- The parameters in `State.reset`: the source values, and for the two OPEN ones a value that no statement rests on,
`ACK_TYPE` = 0x02 (PRESUMED, K2, log entry 1) and `TAG_W` = 8 (DESIGN CHOICE, log entry 2). -/
def atReset : Config := { ackType := 0x02, tagWidth := 8 }

/-- The text of a `response` notification for a result code other than 0, which no source gives (R79, U6): an
open value outside the block (log entry 23). -/
opaque otherResponseText : Byte → String

end Config

/-- A tag of `TAG_W` bits (R34, R84). -/
def Tag.fits (cfg : Config) (t : Tag) : Bool := decide (t.token < 2 ^ cfg.tagWidth)

end Sys2Proof
end

