-- ==== Sys2Proof/Syntax.lean ====
section
/-! DEFINITION. The operations of RFXFA, one constructor for each row of spec/opcode_table.json (R86, R93), and
the encoded forms they are decoded from, one for each decode context of R93. -/

namespace Sys2Proof

/-- The operations of R86. A length-byte row carries the inspected byte whole (R77, R106); `ackFrm` carries the
fields of the frame being routed but its type byte, which is `ACK_TYPE` (R73, R164); `fwdFrm` carries the frame. -/
inductive Instr where
  /-- `CHUNK c` (R102). -/
  | chunk (c : List Byte)
  /-- `BYTE b, last` (R112). -/
  | byte (b : Byte) (last : Bool)
  /-- `LENOK`, bytes 0x04 to 0x07 (R77, R106). -/
  | lenOk04 (len : Byte)
  /-- `LENOK`, bytes 0x08 to 0x0F (R77, R106). -/
  | lenOk08 (len : Byte)
  /-- `LENOK`, bytes 0x10 to 0x1F (R77, R106). -/
  | lenOk10 (len : Byte)
  /-- `LENOK`, bytes 0x20 to 0x23 (R77, R106). -/
  | lenOk20 (len : Byte)
  /-- `LENOK`, byte 0x24 (R77, R106). -/
  | lenOk24 (len : Byte)
  /-- `LENBAD`, bytes 0x00 to 0x03 (R77, R107). -/
  | lenBad00 (len : Byte)
  /-- `LENBAD`, byte 0x25 (R77, R107). -/
  | lenBad25 (len : Byte)
  /-- `LENBAD`, bytes 0x26 to 0x27 (R77, R107). -/
  | lenBad26 (len : Byte)
  /-- `LENBAD`, bytes 0x28 to 0x2F (R77, R107). -/
  | lenBad28 (len : Byte)
  /-- `LENBAD`, bytes 0x30 to 0x3F (R77, R107). -/
  | lenBad30 (len : Byte)
  /-- `LENBAD`, bytes 0x40 to 0x7F (R77, R107). -/
  | lenBad40 (len : Byte)
  /-- `LENBAD`, bytes 0x80 to 0xFF (R77, R107). -/
  | lenBad80 (len : Byte)
  /-- `LENNONE`: the buffer is empty at the inspection point (R108). -/
  | lenNone
  /-- `SEQNEXT` (R130). -/
  | seqNext
  /-- `ACKREG seq, tag` (R141). -/
  | ackReg (seq : SeqNum) (tag : Tag)
  /-- `ACKRES seq` (R142). -/
  | ackRes (seq : SeqNum)
  /-- `ACKREL seq` (R143). -/
  | ackRel (seq : SeqNum)
  /-- `RXEN` (R180). -/
  | rxEn
  /-- `RXDIS` (R181). -/
  | rxDis
  /-- Command code 6, reserved (R183). -/
  | oprsv6
  /-- Command code 7, reserved (R183). -/
  | oprsv7
  /-- `ROUTE` (R161). -/
  | route
  /-- `ACKFRM`: the frame being routed has type `ACK_TYPE` (R164). -/
  | ackFrm (len subtype seq code : Byte) (more : List Byte)
  /-- `FWDFRM`: the frame being routed has another type (R166). -/
  | fwdFrm (p : Frame)
  /-- `RESET` (R182). -/
  | reset
  deriving DecidableEq, Repr

/-- One transfer of the command port: a word of three fields (R84). The spec gives the fields no bit positions. -/
structure CommandWord where
  op  : BitVec 3
  seq : SeqNum
  tag : Tag
  deriving DecidableEq, Repr

/-- What a decoder looks at, one constructor for each decode context of R93. -/
inductive Encoded where
  /-- `RXC`: a run of receive-port transfers. -/
  | rxc (run : List RxTransfer)
  /-- `RXB`: one receive-port transfer. -/
  | rxb (t : RxTransfer)
  /-- `LB`: the byte at the head of the buffer with no frame in progress. -/
  | lb (b : Byte)
  /-- `LBE`: the buffer is empty at the inspection point. -/
  | lbe
  /-- `OP`: one command-port word. -/
  | op (w : CommandWord)
  /-- `INT`: an internal step. -/
  | int
  /-- `FT`: a frame being routed, matched on its type byte `p[1]`. -/
  | ft (p : Frame)
  /-- `RST`: the one-bit reset input. -/
  | rst (r : BitVec 1)
  deriving DecidableEq, Repr

end Sys2Proof
end

