-- ==== Sys2Proof/WellFormed.lean ====
section
/-! DEFINITION. Which operations are well formed: a length-byte row carries a byte of its own class (R77), a tag
operand has `TAG_W` bits (R84), and a frame being routed has the size its length byte says (R162) and the type byte of
its row (R78). -/

namespace Sys2Proof

/-- `byte & mask == match`, the test of a row of the opcode table (R77, R93). -/
def maskMatch (mask value b : Byte) : Bool := b &&& mask == value

/-- Well-formedness of an operation, for a machine with the parameters `cfg`. -/
def Instr.wf (cfg : Config) : Instr → Bool
  | .chunk _ => true
  | .byte _ _ => true
  | .lenOk04 len => maskMatch 0xFC 0x04 len
  | .lenOk08 len => maskMatch 0xF8 0x08 len
  | .lenOk10 len => maskMatch 0xF0 0x10 len
  | .lenOk20 len => maskMatch 0xFC 0x20 len
  | .lenOk24 len => maskMatch 0xFF 0x24 len
  | .lenBad00 len => maskMatch 0xFC 0x00 len
  | .lenBad25 len => maskMatch 0xFF 0x25 len
  | .lenBad26 len => maskMatch 0xFE 0x26 len
  | .lenBad28 len => maskMatch 0xF8 0x28 len
  | .lenBad30 len => maskMatch 0xF0 0x30 len
  | .lenBad40 len => maskMatch 0xC0 0x40 len
  | .lenBad80 len => maskMatch 0x80 0x80 len
  | .lenNone => true
  | .seqNext => true
  | .ackReg _ tag => tag.fits cfg
  | .ackRes _ => true
  | .ackRel _ => true
  | .rxEn => true
  | .rxDis => true
  | .oprsv6 => true
  | .oprsv7 => true
  | .route => true
  | .ackFrm len _ _ _ more => more.length + 4 == len.toNat
  | .fwdFrm p =>
    match p with
    | len :: type :: payload => payload.length + 1 == len.toNat && type != cfg.ackType
    | _ => false
  | .reset => true

end Sys2Proof
end

