-- ==== Sys2Proof/Decode.lean ====
section
/-! DEFINITION. The decoder of each context of R93, the encoder, and the reading of a bare word of
spec/opcode_table.json. -/

namespace Sys2Proof

/-- Why an encoded form is no operation. -/
inductive DecodeError where
  /-- A run of transfers that does not end at, or goes on after, a transfer with `rx_last` = 1 (R83). -/
  | notAChunk
  /-- The reset input is not asserted (R93). -/
  | resetNotAsserted
  /-- The size of a frame being routed is not `p[0] + 1` (R162). -/
  | frameSizeMismatch
  /-- A frame being routed lacks a byte the router reads (R164; log entry 11). -/
  | frameTooShort
  /-- A tag that has not the width `TAG_W`: no transfer of the command port (R84; log entry 2). -/
  | tagTooWide
  /-- No length-byte row matches the byte; `decodeLength_isSome` shows that this never happens (R77). -/
  | noLengthRow
  deriving DecidableEq, Repr

/-- `rx_data[7:0]` of a transfer (R83). -/
def RxTransfer.data (t : RxTransfer) : Byte := t.setWidth 8

/-- `rx_last` of a transfer (R83). -/
def RxTransfer.last (t : RxTransfer) : Bool := t.msb

/-- The transfer that carries byte `b` with `rx_last` = `last` (R83). -/
def transferOf (b : Byte) (last : Bool) : RxTransfer := (BitVec.ofBool last ++ b).cast (by decide)

/-- The run of transfers of a chunk (R83): `rx_last` is 1 on the last byte and 0 before it. A chunk of no bytes
is the empty run, which the port cannot express and the model can (R83, log entry 14). -/
def chunkRun : List Byte → List RxTransfer
  | [] => []
  | [b] => [transferOf b true]
  | b :: c :: rest => transferOf b false :: chunkRun (c :: rest)

/-- The chunk a run of transfers carries, if the run is one chunk (R83). -/
def decodeRun : List RxTransfer → Except DecodeError (List Byte)
  | [] => .ok []
  | [t] => if RxTransfer.last t then .ok [RxTransfer.data t] else .error .notAChunk
  | t :: u :: rest =>
    if RxTransfer.last t then .error .notAChunk
    else
      match decodeRun (u :: rest) with
      | .ok bytes => .ok (RxTransfer.data t :: bytes)
      | .error e => .error e

/-- One row of the length-byte table of R77. -/
structure LengthRow where
  mask : Byte
  value : Byte
  make : Byte → Instr

/-- The twelve length-byte rows, as R77 lists them. -/
def lengthRows : List LengthRow :=
  [⟨0xFC, 0x00, .lenBad00⟩, ⟨0xFC, 0x04, .lenOk04⟩, ⟨0xF8, 0x08, .lenOk08⟩, ⟨0xF0, 0x10, .lenOk10⟩]
  ++ [⟨0xFC, 0x20, .lenOk20⟩, ⟨0xFF, 0x24, .lenOk24⟩, ⟨0xFF, 0x25, .lenBad25⟩, ⟨0xFE, 0x26, .lenBad26⟩]
  ++ [⟨0xF8, 0x28, .lenBad28⟩, ⟨0xF0, 0x30, .lenBad30⟩, ⟨0xC0, 0x40, .lenBad40⟩, ⟨0x80, 0x80, .lenBad80⟩]

/-- The length-byte row of an inspected byte (R77). `decodeLength_isSome` shows that there always is one. -/
def decodeLength (b : Byte) : Option Instr :=
  (lengthRows.find? fun row => maskMatch row.mask row.value b).map fun row => row.make b

/-- The command-port row of a word (R85); fields an operation does not use are ignored (R84). -/
def decodeCommand (w : CommandWord) : Instr :=
  match w.op.toNat with
  | 0 => .seqNext
  | 1 => .ackReg w.seq w.tag
  | 2 => .ackRes w.seq
  | 3 => .ackRel w.seq
  | 4 => .rxEn
  | 5 => .rxDis
  | 6 => .oprsv6
  | _ => .oprsv7

/-- The row of a frame being routed (R78): `ACKFRM` if its type byte is `ACK_TYPE`, else `FWDFRM`. A frame of the
wrong size has no row, for the router drops it before it looks at the type byte (R162). -/
def decodeFrame (cfg : Config) (p : Frame) : Except DecodeError Instr :=
  match p with
  | len :: type :: payload =>
    if payload.length + 2 ≠ len.toNat + 1 then .error .frameSizeMismatch
    else if type = cfg.ackType then
      match payload with
      | subtype :: seq :: code :: more => .ok (.ackFrm len subtype seq code more)
      | _ => .error .frameTooShort
    else .ok (.fwdFrm p)
  | [len] => if 1 ≠ len.toNat + 1 then .error .frameSizeMismatch else .error .frameTooShort
  | [] => .error .frameSizeMismatch

/-- The decoder, total on every encoded form, for a machine with the parameters `cfg` (R93). -/
def decode (cfg : Config) : Encoded → Except DecodeError Instr
  | .rxc run =>
    match decodeRun run with
    | .ok bytes => .ok (.chunk bytes)
    | .error e => .error e
  | .rxb t => .ok (.byte (RxTransfer.data t) (RxTransfer.last t))
  | .lb b =>
    match decodeLength b with
    | some i => .ok i
    | none => .error .noLengthRow
  | .lbe => .ok .lenNone
  | .op w => if w.tag.fits cfg then .ok (decodeCommand w) else .error .tagTooWide
  | .int => .ok .route
  | .ft p => decodeFrame cfg p
  | .rst r => if r = 1 then .ok .reset else .error .resetNotAsserted

/-- The encoder: the form that stands for an operation, its unused fields 0 (R83 to R85, R93). -/
def encode (cfg : Config) : Instr → Encoded
  | .chunk c => .rxc (chunkRun c)
  | .byte b last => .rxb (transferOf b last)
  | .lenOk04 len => .lb len
  | .lenOk08 len => .lb len
  | .lenOk10 len => .lb len
  | .lenOk20 len => .lb len
  | .lenOk24 len => .lb len
  | .lenBad00 len => .lb len
  | .lenBad25 len => .lb len
  | .lenBad26 len => .lb len
  | .lenBad28 len => .lb len
  | .lenBad30 len => .lb len
  | .lenBad40 len => .lb len
  | .lenBad80 len => .lb len
  | .lenNone => .lbe
  | .seqNext => .op ⟨0, 0, ⟨0⟩⟩
  | .ackReg seq tag => .op ⟨1, seq, tag⟩
  | .ackRes seq => .op ⟨2, seq, ⟨0⟩⟩
  | .ackRel seq => .op ⟨3, seq, ⟨0⟩⟩
  | .rxEn => .op ⟨4, 0, ⟨0⟩⟩
  | .rxDis => .op ⟨5, 0, ⟨0⟩⟩
  | .oprsv6 => .op ⟨6, 0, ⟨0⟩⟩
  | .oprsv7 => .op ⟨7, 0, ⟨0⟩⟩
  | .route => .int
  | .ackFrm len subtype seq code more => .ft (len :: cfg.ackType :: subtype :: seq :: code :: more)
  | .fwdFrm p => .ft p
  | .reset => .rst 1

/-- The context of a bare table word (log entry 8, DESIGN CHOICE). The table's contexts overlap bit for bit and a
bare word does not name its own, so one reading is fixed: no bits are an empty chunk; a byte below 8 is the `op`
field of a command word whose other fields are 0; any other byte is a length byte; a wider word is one
receive-port transfer. A word too wide for a transfer is read as a run that is no chunk, and decodes to nothing. -/
def tableWordContext (nbits w : Nat) : Encoded :=
  if nbits = 0 then .rxc []
  else if nbits ≤ 8 then
    if w < 8 then .op ⟨BitVec.ofNat 3 w, 0, ⟨0⟩⟩
    else if w < 256 then .lb (BitVec.ofNat 8 w)
    else .rxc [0]
  else if w < 512 then .rxb (BitVec.ofNat 9 w)
  else .rxc [0]

/-- The operation the decoder reads from a bare word of spec/opcode_table.json. -/
def decodeTableWord (nbits w : Nat) : Option Instr :=
  match decode Config.atReset (tableWordContext nbits w) with
  | .ok i => some i
  | .error _ => none

end Sys2Proof
end

