-- ==== Sys2Proof/Machine/State.lean ====
section
/-! DEFINITION. The state of the block (R20), its output events (R40), the requests of the environment, the
reasons a step can stop, and the state after reset (R45). -/

namespace Sys2Proof.Machine

/-- The output events of R40. -/
inductive Event where
  /-- `FRAME(p)`, emitted by `CHUNK` and `BYTE`. -/
  | frame (p : Frame)
  /-- `SEQ(v)`, the value `SEQNEXT` returns. -/
  | seq (v : SeqNum)
  /-- `DONE(t)`, emitted by `ACKRES` and `ROUTE`. -/
  | done (t : Tag)
  /-- `RESPONSE(seq, code)`, emitted by `ROUTE`. -/
  | response (seq code : Byte)
  /-- `FWD(p)`, emitted by `ROUTE`. -/
  | fwd (p : Frame)
  /-- `LOG(LengthMismatch)`, emitted by `ROUTE`. -/
  | logLengthMismatch
  /-- `OPERR(code)`, emitted by a reserved command code. -/
  | operr (code : BitVec 3)
  deriving DecidableEq, Repr

/-- A request the environment makes or a turn it leaves to the router (R83, R84, R87, R241). The list of requests
is the total order of R58 (log entry 3). The last two are the model's own: they present an inner case of `CHUNK` or
of `ROUTE` by itself, and at rest they do nothing that the block could not do (log entry 9). -/
inductive Request where
  /-- A run of receive-port transfers (R83). -/
  | rxChunk (run : List RxTransfer)
  /-- One receive-port transfer, for the byte-serial refinement (R112). -/
  | rxTransfer (t : RxTransfer)
  /-- One command-port transfer (R84). -/
  | command (w : CommandWord)
  /-- A turn of the router agent (R161). -/
  | routerTurn
  /-- The reset input sampled at `r`; it is an operation only when asserted (R87, R93). -/
  | resetInput (r : BitVec 1)
  /-- The inspection of the head of the buffer, by itself (R77, R108). -/
  | inspection
  /-- The classification of the frame at the head of the frame queue, taken in hand as `ROUTE` takes it (R78). -/
  | frameInHand
  deriving DecidableEq, Repr

/-- The reasons a step stops with a fault. No condition of the block is one (R220). -/
inductive Fault where
  /-- Raised by `execRoute` when `frm_q` is empty: the step is not enabled, there is no such transition (U11, log
  entry 10). Safe. `step` passes such a turn over and never raises it. -/
  | routeNotEnabled
  /-- Raised by `execRoute` for a frame of the size its length byte says that yet lacks a byte the router reads
  (R164: a frame has at least 5 bytes; log entry 11). Safe; no state with well-formed queued frames raises it. -/
  | frameTooShort
  deriving DecidableEq, Repr

/-- The reasons a step is refused. -/
inductive Refusal where
  /-- Answered by `exec` for an operation that has no meaning in the model. Safe. -/
  | notModelled (mnemonic : String)
  /-- Answered by `step` for a request that encodes no operation. Safe. -/
  | undecodable (why : DecodeError)
  deriving DecidableEq, Repr

/-- `ack`: the slots of the acknowledgement table, `SLOTS` of them (R33, R34), each 8-bit index naming one (R52). A
slot is `none` when empty, so the tag field of an empty slot cannot be written down (U1, log entry 24). -/
structure Table where
  slots : List (Option Tag)
  indexed : 256 ≤ slots.length
  deriving DecidableEq, Repr

/-- The table after reset, every slot empty (R45). -/
def Table.empty (cfg : Config) : Table := ⟨List.replicate cfg.slots none, by simp [cfg.indexed]⟩

/-- The state of the block: the seven elements of R20, the three bits of the byte-serial refinement (R27, R28,
R112), and two fields of the model's own, `cfg` and `inputs`. -/
structure State where
  /-- The parameters of R8, which no operation writes. They are no state of the block (R46); the one state type of the
  host's interface carries them, so that statements hold for all their values (log entry 7). -/
  cfg : Config
  /-- `rx_en` (R21). -/
  rxEn : Bool
  /-- `buf`, the accumulation buffer, oldest byte first (R22). -/
  buf : List Byte
  /-- `req`, the source's `requiredBytes` (R23; log entry 18). -/
  req : Nat
  /-- `skip`, refinement only (R27). -/
  skip : Bool
  /-- `live`, refinement only (R28). -/
  live : Bool
  /-- `first`: the next transfer is the first of its chunk; refinement only (R112). -/
  first : Bool
  /-- `seq_ctr` (R30). -/
  seqCtr : SeqNum
  /-- `ack` (R33, R34). -/
  ack : Table
  /-- `frm_q`, oldest frame first (R36). -/
  frmQ : List Frame
  /-- The output history, oldest event first (R13, R40). -/
  history : List Event
  /-- The requests still to come, in the total order of R58 (log entry 3); no operation reads or writes it. -/
  inputs : List Request
  deriving DecidableEq, Repr

/-- The state after reset (R45) of a block with the parameters `cfg`. -/
def State.resetOf (cfg : Config) : State where
  cfg := cfg
  rxEn := false
  buf := []
  req := 0
  skip := false
  live := false
  first := true
  seqCtr := cfg.seqInit
  ack := Table.empty cfg
  frmQ := []
  history := []
  inputs := []

/-- The state after reset with the parameters of `Config.atReset`. -/
def State.reset : State := State.resetOf Config.atReset

end Sys2Proof.Machine
end

