-- ==== Sys2Proof/Machine/Operands.lean ====
section
/-! DEFINITION. The operand forms of the block (R75, R76, R77): the inspected byte as a length, the bytes of a
chunk as transfers, and the fields of an acknowledgement frame. -/

namespace Sys2Proof.Machine

/-- The class of an inspected byte: `LEN_MIN <= b <= LEN_MAX`, unsigned, both ends included (R77). -/
def lengthOk (cfg : Config) (b : Byte) : Bool := decide (cfg.lenMin ≤ b.toNat ∧ b.toNat ≤ cfg.lenMax)

/-- From the length byte to `req`: `zext(b) + 1`, without overflow (R75). -/
def reqOfLength (b : Byte) : Nat := b.toNat + 1

/-- The size check of the router, `len(p) = p[0] + 1` (R162). An empty `p` fails it whatever `p[0]` would be. -/
def sizeOk (p : Frame) : Bool :=
  match p with
  | [] => false
  | len :: body => body.length == len.toNat

/-- A frame as the Framer makes it: `LEN_MIN <= p[0] <= LEN_MAX` and `len(p) = p[0] + 1` (R37, R118). -/
def frameOk (cfg : Config) (p : Frame) : Bool :=
  match p with
  | [] => false
  | len :: body => lengthOk cfg len && body.length == len.toNat

end Sys2Proof.Machine
end

