-- ==== Sys2Proof/Machine/Ops.lean ====
section
/-! DEFINITION. The shared operations over the state: emitting an event (R13), the accumulation buffer (R51), the
recovery of X1 FramingDesync (R234), the acknowledgement table (R52, R142), the frame queue (R62) and the counter. -/

namespace Sys2Proof.Machine

/-- `emit e`: appends `e` to the output history (R13). -/
def State.emit (e : Event) (s : State) : State := { s with history := s.history ++ [e] }

/-- `rx_en <- v` (R180, R181). -/
def State.setGate (v : Bool) (s : State) : State := { s with rxEn := v }

/-- `buf <- buf ++ c` (R104). -/
def State.appendBuf (c : List Byte) (s : State) : State := { s with buf := s.buf ++ c }

/-- A frame leaves the Framer: `frm_q <- frm_q ++ [p]; emit FRAME(p)` (R36, R40). -/
def State.pushFrame (p : Frame) (s : State) : State :=
  { s with frmQ := s.frmQ ++ [p], history := s.history ++ [.frame p] }

/-- The first `req` bytes of `buf` are removed and emitted as one frame (R105). -/
def State.emitFrame (s : State) : State :=
  { s.pushFrame (s.buf.take s.req) with buf := s.buf.drop s.req }

/-- `LENOK`: `req <- b + 1`; the byte stays in `buf` (R106). -/
def State.startFrame (b : Byte) (s : State) : State := { s with req := reqOfLength b }

/-- The recovery of X1 FramingDesync, the one condition that changes control flow: nothing is saved, `buf <- []`
and `req <- 0` (R107, R234). It is also the exit at an empty buffer (R108). -/
def State.desync (s : State) : State := { s with buf := [], req := 0 }

/-- The byte-serial refinement starts a frame: `buf <- [b]; req <- b + 1` (R112). -/
def State.openFrame (b : Byte) (s : State) : State := { s with buf := [b], req := reqOfLength b }

/-- The byte-serial refinement ends a frame: it is emitted whole, `buf <- []; req <- 0` (R112). -/
def State.closeFrame (s : State) : State := (s.pushFrame s.buf).desync

/-- `ack[q]` (R12, R52): the slot index is the sequence number. -/
def State.slot (s : State) (q : SeqNum) : Option Tag := s.ack.slots[q.toNat]'(Nat.lt_of_lt_of_le q.isLt s.ack.indexed)

/-- `ack[q] <- v` (R12, R52). -/
def State.setSlot (q : SeqNum) (v : Option Tag) (s : State) : State :=
  { s with ack := ⟨s.ack.slots.set q.toNat v, by simp [s.ack.indexed]⟩ }

/-- `resolve(q)`, one atomic step: a filled slot delivers its tag in `DONE` and is emptied; an empty one is a
no-op (R60, R142). -/
def State.resolve (q : SeqNum) (s : State) : State :=
  match s.slot q with
  | some t => (s.emit (.done t)).setSlot q none
  | none => s

/-- `seq_ctr <- (seq_ctr + 1) mod SEQ_MOD`, where `SEQ_MOD` is 256 by default (R130, R131, R8). -/
def State.advanceCounter (s : State) : State :=
  { s with seqCtr := BitVec.ofNat 8 ((s.seqCtr.toNat + 1) % s.cfg.seqMod) }

/-- `frm_q <- q`, the rest of the queue after its head is taken (R161). -/
def State.setQueue (q : List Frame) (s : State) : State := { s with frmQ := q }

/-- The acknowledgement path of the router: resolve, then `RESPONSE` (R164, R165). -/
def State.acknowledge (seq code : Byte) (s : State) : State := (s.resolve seq).emit (.response seq code)

end Sys2Proof.Machine
end

