-- ==== Sys2Proof/Machine/AckTable.lean ====
section
/-! DEFINITION. The AcknowledgementTable: `ACKREG` (R141), `ACKRES` (R142) and `ACKREL` (R143). -/

namespace Sys2Proof.Machine

/-- `ACKREG seq, tag` (R141): overwrites whatever the slot held, silently. -/
def execAckReg (seq : SeqNum) (tag : Tag) (s : State) : Host.Outcome State Fault Refusal :=
  .next (s.setSlot seq (some tag))

/-- `ACKRES seq` (R142): exactly `resolve(seq)`. -/
def execAckRes (seq : SeqNum) (s : State) : Host.Outcome State Fault Refusal := .next (s.resolve seq)

/-- `ACKREL seq` (R143, D14): empties the slot without `DONE`. -/
def execAckRel (seq : SeqNum) (s : State) : Host.Outcome State Fault Refusal := .next (s.setSlot seq none)

end Sys2Proof.Machine
end

