-- ==== Sys2Proof/Machine/Allocator.lean ====
section
/-! DEFINITION. The SequenceAllocator: `SEQNEXT` (R130). -/

namespace Sys2Proof.Machine

/-- `SEQNEXT` (R130): returns the counter's value before the increment. -/
def execSeqNext (s : State) : Host.Outcome State Fault Refusal :=
  .next (s.advanceCounter.emit (.seq s.seqCtr))

end Sys2Proof.Machine
end

