-- ==== Sys2Proof/Machine/Control.lean ====
section
/-! DEFINITION. The control operations: `RXEN` (R180), `RXDIS` (R181), `RESET` (R182) and the reserved command
codes (R183). -/

namespace Sys2Proof.Machine

/-- `RXEN` (R180). -/
def execRxEn (s : State) : Host.Outcome State Fault Refusal := .next (s.setGate true)

/-- `RXDIS` (R181, D4): `buf`, `req` and `frm_q` are kept. -/
def execRxDis (s : State) : Host.Outcome State Fault Refusal := .next (s.setGate false)

/-- `OPRSV6` (R183): no state change, `OPERR(6)`. -/
def execOprsv6 (s : State) : Host.Outcome State Fault Refusal := .next (s.emit (.operr 6))

/-- `OPRSV7` (R183): no state change, `OPERR(7)`. -/
def execOprsv7 (s : State) : Host.Outcome State Fault Refusal := .next (s.emit (.operr 7))

/-- `RESET` (R182): every element takes its reset value of R45, the output history among them (log entry 5), and
nothing is emitted. The parameters and the requests to come are not the block's to reset. -/
def execReset (s : State) : Host.Outcome State Fault Refusal :=
  .next { State.resetOf s.cfg with inputs := s.inputs }

end Sys2Proof.Machine
end

