-- ==== Sys2Proof/Machine/Flags.lean ====
section
/-! DEFINITION. The one-bit state of the block (R42) and how operations update it: the gate, the slot valid bits
and the three bits of the byte-serial refinement; and the phase, which is a region of the state (R24). -/

namespace Sys2Proof.Machine

/-- The valid bit of slot `q` (R34): whether it is filled. -/
def State.valid (s : State) (q : SeqNum) : Bool := (s.slot q).isSome

/-- The first line of `BYTE`: on the first transfer of a chunk `live <- rx_en; skip <- 0` (R112, D5). -/
def State.latchGate (s : State) : State :=
  if s.first then { s with live := s.rxEn, skip := false } else s

/-- `skip <- 1`: a byte failed the length test in phase IDLE (R27, R112). -/
def State.startSkip (s : State) : State := { s with skip := true }

/-- The last line of `BYTE`, and the update of `first`: the end of the chunk ends SKIP, and the next transfer is
the first of a chunk exactly if this one was the last of its own (R112). -/
def State.endTransfer (last : Bool) (s : State) : State :=
  { s with skip := s.skip && !last, first := last }

/-- The framer phases of R24. -/
inductive Phase where
  | idle
  | collect
  | skip
  deriving DecidableEq, Repr

/-- Phase IDLE: `req = 0` and `buf = []` (R24). -/
def State.isIdle (s : State) : Bool := s.req == 0 && s.buf.isEmpty

/-- Phase COLLECT: `req > 0`, `1 <= len(buf) < req` and `buf[0] + 1 = req` (R24), the length byte in range (R25). -/
def State.isCollect (s : State) : Bool :=
  match s.buf with
  | [] => false
  | b :: body => lengthOk s.cfg b && s.req == reqOfLength b && decide (body.length + 1 < s.req)

/-- The phase, for a state that is in one (R24): SKIP exists only inside a chunk of the byte-serial refinement. -/
def State.phase (s : State) : Option Phase :=
  if s.skip then some .skip
  else if s.isIdle then some .idle
  else if s.isCollect then some .collect
  else none

end Sys2Proof.Machine
end

