-- ==== Sys2Proof/Machine/Framer.lean ====
section
/-! DEFINITION. The Framer: `CHUNK` (R102), its byte-serial refinement `BYTE` (R112) and the length-byte rows
(R106 to R108). -/

namespace Sys2Proof.Machine

/-- The optional emit at the start of a pass of the loop (R105). -/
def State.collectFrame (s : State) : State := if 0 < s.req then s.emitFrame else s

/-- The loop of `CHUNK` (R105): while `buf` holds at least `req` bytes, emit the frame held, if any, and inspect the
byte now first. `n` bounds the passes; R109 says how many there are at most. -/
def chunkLoop : Nat → State → State
  | 0, s => s
  | n + 1, s =>
    if s.buf.length < s.req then s
    else
      match s.collectFrame.buf with
      | b :: _ => if lengthOk s.cfg b then chunkLoop n (s.collectFrame.startFrame b) else s.collectFrame.desync
      | [] => s.collectFrame.desync

/-- How many passes the loop of a `CHUNK` needs at most for `n` bytes held (R109). -/
def passBound (n : Nat) : Nat := 1 + n / 5

/-- `CHUNK c` with the gate open (R104, R105). -/
def State.chunk (c : List Byte) (s : State) : State :=
  chunkLoop (passBound (s.buf ++ c).length) (s.appendBuf c)

/-- `CHUNK c` (R102): a shut gate discards the chunk whole (R103). -/
def execChunk (c : List Byte) (s : State) : Host.Outcome State Fault Refusal :=
  .next (if s.rxEn then s.chunk c else s)

/-- The body of `BYTE` on an accepted byte: phase IDLE tests it as a length byte, phase COLLECT appends it and
emits the frame when it is complete (R112). -/
def State.takeByte (b : Byte) (s : State) : State :=
  if s.req = 0 then
    if lengthOk s.cfg b then s.openFrame b else s.startSkip
  else if s.buf.length + 1 = s.req then (s.appendBuf [b]).closeFrame
  else s.appendBuf [b]

/-- `BYTE b, last` (R112). -/
def execByte (b : Byte) (last : Bool) (s : State) : Host.Outcome State Fault Refusal :=
  let latched := s.latchGate
  .next ((if latched.live && !latched.skip then latched.takeByte b else latched).endTransfer last)

/-- `LENOK_04` (R106). -/
def execLenOk04 (len : Byte) (s : State) : Host.Outcome State Fault Refusal := .next (s.startFrame len)

/-- `LENOK_08` (R106). -/
def execLenOk08 (len : Byte) (s : State) : Host.Outcome State Fault Refusal := .next (s.startFrame len)

/-- `LENOK_10` (R106). -/
def execLenOk10 (len : Byte) (s : State) : Host.Outcome State Fault Refusal := .next (s.startFrame len)

/-- `LENOK_20` (R106). -/
def execLenOk20 (len : Byte) (s : State) : Host.Outcome State Fault Refusal := .next (s.startFrame len)

/-- `LENOK_24` (R106). -/
def execLenOk24 (len : Byte) (s : State) : Host.Outcome State Fault Refusal := .next (s.startFrame len)

/-- `LENBAD_00` (R107). -/
def execLenBad00 (s : State) : Host.Outcome State Fault Refusal := .next s.desync

/-- `LENBAD_25` (R107). -/
def execLenBad25 (s : State) : Host.Outcome State Fault Refusal := .next s.desync

/-- `LENBAD_26` (R107). -/
def execLenBad26 (s : State) : Host.Outcome State Fault Refusal := .next s.desync

/-- `LENBAD_28` (R107). -/
def execLenBad28 (s : State) : Host.Outcome State Fault Refusal := .next s.desync

/-- `LENBAD_30` (R107). -/
def execLenBad30 (s : State) : Host.Outcome State Fault Refusal := .next s.desync

/-- `LENBAD_40` (R107). -/
def execLenBad40 (s : State) : Host.Outcome State Fault Refusal := .next s.desync

/-- `LENBAD_80` (R107). -/
def execLenBad80 (s : State) : Host.Outcome State Fault Refusal := .next s.desync

/-- `LENNONE` (R108, D3): the branch of `LENBAD`, taken with nothing to inspect. -/
def execLenNone (s : State) : Host.Outcome State Fault Refusal := .next s.desync

end Sys2Proof.Machine
end

