-- ==== Sys2Proof/Machine/Router.lean ====
section
/-! DEFINITION. The acknowledgement router: `ROUTE` (R161) and its inner cases `ACKFRM` (R164) and `FWDFRM` (R166). -/

namespace Sys2Proof.Machine

/-- `ACKFRM` (R164, R165): the subtype, the length and any further bytes are not examined (R167). -/
def execAckFrm (seq code : Byte) (s : State) : Host.Outcome State Fault Refusal := .next (s.acknowledge seq code)

/-- `FWDFRM` (R166): the frame is handed on whole and unchanged. -/
def execFwdFrm (p : Frame) (s : State) : Host.Outcome State Fault Refusal := .next (s.emit (.fwd p))

/-- What the router does with the frame `p` it has taken (R161): the length check comes first (R162), then the type
byte is compared with `ACK_TYPE` (R163). -/
def routeFrame (p : Frame) (s : State) : Host.Outcome State Fault Refusal :=
  if sizeOk p then
    match p with
    | _ :: type :: payload =>
      if type = s.cfg.ackType then
        match payload with
        | _ :: seq :: code :: _ => .next (s.acknowledge seq code)
        | _ => .fault .frameTooShort
      else .next (s.emit (.fwd p))
    | _ => .fault .frameTooShort
  else .next (s.emit .logLengthMismatch)

/-- `ROUTE` (R161): takes the frame at the head of `frm_q`. With none there the step is not enabled (U11). -/
def execRoute (s : State) : Host.Outcome State Fault Refusal :=
  match s.frmQ with
  | p :: rest => routeFrame p (s.setQueue rest)
  | [] => .fault .routeNotEnabled

end Sys2Proof.Machine
end

