-- ==== Sys2Proof/Machine/Dispatch.lean ====
section
/-! DEFINITION. The meaning of every operation: one arm per constructor of `Instr`. -/

namespace Sys2Proof.Machine

def exec (i : Instr) (s : State) : Host.Outcome State Fault Refusal :=
  match i with
  | .chunk c => Sys2Proof.Machine.execChunk c s
  | .byte b last => Sys2Proof.Machine.execByte b last s
  | .lenOk04 len => Sys2Proof.Machine.execLenOk04 len s
  | .lenOk08 len => Sys2Proof.Machine.execLenOk08 len s
  | .lenOk10 len => Sys2Proof.Machine.execLenOk10 len s
  | .lenOk20 len => Sys2Proof.Machine.execLenOk20 len s
  | .lenOk24 len => Sys2Proof.Machine.execLenOk24 len s
  | .lenBad00 _ => Sys2Proof.Machine.execLenBad00 s
  | .lenBad25 _ => Sys2Proof.Machine.execLenBad25 s
  | .lenBad26 _ => Sys2Proof.Machine.execLenBad26 s
  | .lenBad28 _ => Sys2Proof.Machine.execLenBad28 s
  | .lenBad30 _ => Sys2Proof.Machine.execLenBad30 s
  | .lenBad40 _ => Sys2Proof.Machine.execLenBad40 s
  | .lenBad80 _ => Sys2Proof.Machine.execLenBad80 s
  | .lenNone => Sys2Proof.Machine.execLenNone s
  | .seqNext => Sys2Proof.Machine.execSeqNext s
  | .ackReg seq tag => Sys2Proof.Machine.execAckReg seq tag s
  | .ackRes seq => Sys2Proof.Machine.execAckRes seq s
  | .ackRel seq => Sys2Proof.Machine.execAckRel seq s
  | .rxEn => Sys2Proof.Machine.execRxEn s
  | .rxDis => Sys2Proof.Machine.execRxDis s
  | .oprsv6 => Sys2Proof.Machine.execOprsv6 s
  | .oprsv7 => Sys2Proof.Machine.execOprsv7 s
  | .route => Sys2Proof.Machine.execRoute s
  | .ackFrm _ _ seq code _ => Sys2Proof.Machine.execAckFrm seq code s
  | .fwdFrm p => Sys2Proof.Machine.execFwdFrm p s
  | .reset => Sys2Proof.Machine.execReset s

end Sys2Proof.Machine
end

