-- ==== Sys2Proof/Machine/Fetch.lean ====
section
/-! DEFINITION. Where the next operation comes from: the requests of the environment (log entry 3), the router's own
turns (log entry 4), and the placing of a bare table word (log entry 8). -/

namespace Sys2Proof.Machine

/-- The form that `ROUTE` is decoded from, if the step is enabled: `frm_q` is not empty (R161). -/
def routerForm (s : State) : Option (Encoded × State) := if s.frmQ.isEmpty then none else some (.int, s)

/-- The encoded form a request presents to the decoder, with the state it is executed in; `none` when there is
nothing to execute. An inspection presents the head of the buffer (R77, R108); a frame taken in hand leaves the
queue (R161). -/
def presented (r : Request) (s : State) : Option (Encoded × State) :=
  match r with
  | .rxChunk run => some (.rxc run, s)
  | .rxTransfer t => some (.rxb t, s)
  | .command w => some (.op w, s)
  | .routerTurn => routerForm s
  | .resetInput r => if r = 1 then some (.rst r, s) else none
  | .inspection =>
    match s.buf with
    | b :: _ => some (.lb b, s)
    | [] => some (.lbe, s)
  | .frameInHand =>
    match s.frmQ with
    | p :: rest => some (.ft p, s.setQueue rest)
    | [] => none

/-- The next request leaves the list; with none to come the router takes its turn (R266). -/
def fetch (s : State) : Option (Encoded × State) :=
  match s.inputs with
  | r :: rest => presented r { s with inputs := rest }
  | [] => routerForm s

/-- The state after a fetch that found nothing to execute: the turn is passed over, or the block waits (R251). -/
def idleNext (s : State) : State := { s with inputs := s.inputs.tail }

/-- Places an encoded form where the next fetch finds it: as the next request, and for the contexts inside `CHUNK`
and `ROUTE` also in the buffer or at the head of the frame queue. -/
def State.placeForm (e : Encoded) (s : State) : State :=
  match e with
  | .rxc run => { s with inputs := .rxChunk run :: s.inputs }
  | .rxb t => { s with inputs := .rxTransfer t :: s.inputs }
  | .op w => { s with inputs := .command w :: s.inputs }
  | .rst r => { s with inputs := .resetInput r :: s.inputs }
  | .lb b => { s with inputs := .inspection :: s.inputs, buf := [b], req := 0 }
  | .lbe => { s with inputs := .inspection :: s.inputs, buf := [], req := 0 }
  | .ft p => { s with inputs := .frameInHand :: s.inputs, frmQ := p :: s.frmQ }
  | .int => { s with inputs := .routerTurn :: s.inputs }

end Sys2Proof.Machine
end

