-- ==== Sys2Proof/Machine/Step.lean ====
section
/-! DEFINITION. One step: fetch, decode, execute. A step is one whole operation of the block (R14, R58). -/

namespace Sys2Proof.Machine

/-- Decodes a fetched form and executes it. -/
def runForm (e : Encoded) (s : State) : Host.Outcome State Fault Refusal :=
  match decode s.cfg e with
  | .ok i => exec i s
  | .error why => .refused (.undecodable why)

/-- One step of the block. -/
def step (s : State) : Host.Outcome State Fault Refusal :=
  match fetch s with
  | some (e, s') => runForm e s'
  | none => .next (idleNext s)

/-- `s` with the bare table word `w` of `nbits` bits placed where `step` fetches its next operation (log entry 8). -/
def State.withFetchWord (s : State) (nbits w : Nat) : State := s.placeForm (tableWordContext nbits w)

end Sys2Proof.Machine
end

