-- ==== Sys2Proof/Machine/Conditions.lean ====
section
/-! DEFINITION. The conditions of 60_exceptions.md that an operation of the block raises. A condition selects the
state change its rule gives and nothing else (R13); it is recorded nowhere, so this file is read by statements only. -/

namespace Sys2Proof.Machine

/-- The conditions of R229 that arise in the block; X3 and X4 arise outside it (R223, R224). -/
inductive Condition where
  /-- X1 (R221). -/
  | framingDesync
  /-- X2 (R222). -/
  | lengthMismatch
  /-- X5 (R225). -/
  | resolveMiss (seq : SeqNum)
  /-- X6 (R226). -/
  | slotOverwrite (seq : SeqNum)
  /-- X7 (R227). -/
  | reservedOp (code : BitVec 3)
  deriving DecidableEq, Repr

/-- Whether the loop of `CHUNK` ends at a byte out of range, by the passes of `chunkLoop`. The exit at an empty
buffer is not counted (U16; log entry 12). -/
def loopDesyncs : Nat → State → Bool
  | 0, _ => false
  | n + 1, s =>
    if s.buf.length < s.req then false
    else
      match s.collectFrame.buf with
      | b :: _ => if lengthOk s.cfg b then loopDesyncs n (s.collectFrame.startFrame b) else true
      | [] => false

/-- Whether `CHUNK c` raises X1 (R107). -/
def State.chunkDesyncs (c : List Byte) (s : State) : Bool :=
  s.rxEn && loopDesyncs (passBound (s.buf ++ c).length) (s.appendBuf c)

/-- Whether `BYTE b` raises X1: it sets `skip` (R112). -/
def State.byteDesyncs (b : Byte) (s : State) : Bool :=
  s.latchGate.live && !s.latchGate.skip && s.req == 0 && !lengthOk s.cfg b

/-- X5, when the slot a resolve reads is empty (R225). -/
def State.missOf (q : SeqNum) (s : State) : Option Condition :=
  if s.valid q then none else some (.resolveMiss q)

/-- The condition `ROUTE` raises for the frame it takes: X2 ends the step before the table is touched (R233). -/
def State.routeRaises (p : Frame) (s : State) : Option Condition :=
  if sizeOk p then
    match p with
    | _ :: type :: _ :: seq :: _ :: _ => if type = s.cfg.ackType then s.missOf seq else none
    | _ => none
  else some .lengthMismatch

/-- The condition an operation raises in a state, at most one (R233). -/
def raises (i : Instr) (s : State) : Option Condition :=
  match i with
  | .chunk c => if s.chunkDesyncs c then some .framingDesync else none
  | .byte b _ => if s.byteDesyncs b then some .framingDesync else none
  | .lenOk04 _ => none
  | .lenOk08 _ => none
  | .lenOk10 _ => none
  | .lenOk20 _ => none
  | .lenOk24 _ => none
  | .lenBad00 _ => some .framingDesync
  | .lenBad25 _ => some .framingDesync
  | .lenBad26 _ => some .framingDesync
  | .lenBad28 _ => some .framingDesync
  | .lenBad30 _ => some .framingDesync
  | .lenBad40 _ => some .framingDesync
  | .lenBad80 _ => some .framingDesync
  | .lenNone => none
  | .seqNext => none
  | .ackReg seq _ => if s.valid seq then some (.slotOverwrite seq) else none
  | .ackRes seq => s.missOf seq
  | .ackRel _ => none
  | .rxEn => none
  | .rxDis => none
  | .oprsv6 => some (.reservedOp 6)
  | .oprsv7 => some (.reservedOp 7)
  | .route =>
    match s.frmQ with
    | p :: _ => s.routeRaises p
    | [] => none
  | .ackFrm _ _ seq _ _ => s.missOf seq
  | .fwdFrm _ => none
  | .reset => none

end Sys2Proof.Machine
end

