-- ==== Sys2Proof/Machine/Wire.lean ====
section
/-! DEFINITION. The formats that stand beside the machine: the outbound command (format C, R72), the
acknowledgement (format A, R73) and the host's `response` notification (R171). -/

namespace Sys2Proof.Machine

/-- An outbound command (R72). It never enters the block; its sequence number is a value of `SEQNEXT`. -/
structure Command where
  type    : Byte
  subtype : Byte
  seqnbr  : SeqNum
  cmd     : Byte
  payload : List Byte
  deriving DecidableEq, Repr

/-- The command's length fits its length byte: `n <= 251` (R72). -/
def Command.fits (c : Command) : Bool := decide (c.payload.length ≤ 251)

/-- Format C: `[4 + n, type, subtype, seqnbr, cmd, payload...]` (R72, R76). The source sets no bound on `n` and says
nothing of a length byte for `n > 251` (N11); here `4 + n` is then taken modulo 256 (DESIGN CHOICE, log entry 25). -/
def Command.bytes (c : Command) : List Byte :=
  BitVec.ofNat 8 (4 + c.payload.length) :: c.type :: c.subtype :: c.seqnbr :: c.cmd :: c.payload

/-- Format A: `[4, ACK_TYPE, 0, seqnbr, resultCode]` (R73). -/
def ackBytes (ackType : Byte) (seq : SeqNum) (code : Byte) : Frame := [4, ackType, 0, seq, code]

/-- The text of a result code (R79): sourced for code 0 only, an open value otherwise (U6, log entry 23). -/
def responseText (code : Byte) : String :=
  if code = 0 then "ACK - transmit OK" else Config.otherResponseText code

/-- The host's notification `response(message, seqnbr, resultCode)` (R171). -/
structure Notification where
  message    : String
  seqnbr     : SeqNum
  resultCode : Byte
  deriving DecidableEq, Repr

/-- What the host sees of an event: `RESPONSE(seq, code)` is the notification without its text (R171). -/
def Event.notification : Event → Option Notification
  | .response q code => some ⟨responseText code, q, code⟩
  | .frame _ => none
  | .seq _ => none
  | .done _ => none
  | .fwd _ => none
  | .logLengthMismatch => none
  | .operr _ => none

end Sys2Proof.Machine
end

