-- ==== Sys2Proof/Safety.lean ====
section
/-! DEFINITION. The terms claims are stated in: the rest invariant (R25), the queue invariant (R37), runs of
operations, the loop of `CHUNK` as a relation, and renaming of tags. -/

namespace Sys2Proof.Machine

/-- The rest invariant I-REST (R25): phase IDLE or phase COLLECT. -/
def State.atRest (s : State) : Bool := s.isIdle || s.isCollect

/-- Every frame in `frm_q` is as the Framer makes it (R37). -/
def State.queueOk (s : State) : Bool := s.frmQ.all (frameOk s.cfg)

/-- `skip` is 0 between chunks (R27). -/
def State.skipOk (s : State) : Bool := !s.first || !s.skip

/-- `seq_ctr` is a value of the counter, below `SEQ_MOD` (R30, R8). -/
def State.counterOk (s : State) : Bool := decide (s.seqCtr.toNat < s.cfg.seqMod)

/-- The table has `SLOTS` slots, and the tags it holds have `TAG_W` bits (R8, R34). -/
def State.tableOk (s : State) : Bool :=
  s.ack.slots.length == s.cfg.slots && s.ack.slots.all fun slot => slot.all fun tag => tag.fits s.cfg

/-- The invariant of the block: I-REST, well-formed queued frames, no SKIP between chunks, the counter in its range,
and a table of `SLOTS` slots whose tags have `TAG_W` bits. -/
def State.inv (s : State) : Bool := s.atRest && s.queueOk && s.skipOk && s.counterOk && s.tableOk

/-- A run of operations, in their total order (R58), stopping at the first that does not answer a next state. -/
def runOps : List Instr → State → Host.Outcome State Fault Refusal
  | [], s => .next s
  | i :: rest, s =>
    match exec i s with
    | .next t => runOps rest t
    | .fault f => .fault f
    | .refused r => .refused r

/-- The transfers of a chunk as operations of the byte-serial refinement (R113). -/
def byteOps : List Byte → List Instr
  | [] => []
  | [b] => [.byte b true]
  | b :: c :: rest => .byte b false :: byteOps (c :: rest)

/-- The loop of `CHUNK` as R102 writes it, a relation between the state before and after with the number of passes
of its body. -/
inductive LoopRuns : Nat → State → State → Prop where
  /-- The loop test `len(buf) >= req` fails. -/
  | stop (s : State) : s.buf.length < s.req → LoopRuns 0 s s
  /-- The inspected byte is in range: go round again (R106). -/
  | lengthOk (n : Nat) (s t : State) (b : Byte) (body : List Byte) :
      s.req ≤ s.buf.length → s.collectFrame.buf = b :: body → s.cfg.lenMin ≤ b.toNat → b.toNat ≤ s.cfg.lenMax →
      LoopRuns n { s.collectFrame with req := b.toNat + 1 } t → LoopRuns (n + 1) s t
  /-- The inspected byte is out of range: stop processing this chunk (R107). -/
  | lengthBad (s : State) (b : Byte) (body : List Byte) :
      s.req ≤ s.buf.length → s.collectFrame.buf = b :: body → (b.toNat < s.cfg.lenMin ∨ s.cfg.lenMax < b.toNat) →
      LoopRuns 1 s { s.collectFrame with buf := [], req := 0 }
  /-- There is no byte to inspect (R108). -/
  | nothing (s : State) :
      s.req ≤ s.buf.length → s.collectFrame.buf = [] → LoopRuns 1 s { s.collectFrame with buf := [], req := 0 }

/-- `f` applied to the state a step answers. -/
def mapNext (f : State → State) : Host.Outcome State Fault Refusal → Host.Outcome State Fault Refusal
  | .next s => .next (f s)
  | .fault r => .fault r
  | .refused r => .refused r

/-- An event with its tag renamed. -/
def Event.renameTag (f : Tag → Tag) : Event → Event
  | .done t => .done (f t)
  | .frame p => .frame p
  | .seq v => .seq v
  | .response q code => .response q code
  | .fwd p => .fwd p
  | .logLengthMismatch => .logLengthMismatch
  | .operr code => .operr code

/-- A state with every tag in the table and in the history renamed. -/
def State.renameTags (f : Tag → Tag) (s : State) : State :=
  { s with
    ack := ⟨s.ack.slots.map (Option.map f), by simp [s.ack.indexed]⟩
    history := s.history.map (Event.renameTag f) }

/-- An operation with its tag operand renamed; `ACKREG` is the only one that has one (R84). -/
def renameTagOperand (f : Tag → Tag) (i : Instr) : Instr :=
  if let .ackReg seq tag := i then .ackReg seq (f tag) else i

/-- How often the tag `t` has been delivered (R148). -/
def State.deliveries (t : Tag) (s : State) : Nat := s.history.count (.done t)

/-- How many slots hold the tag `t` (R148). -/
def State.holdings (t : Tag) (s : State) : Nat := s.ack.slots.count (some t)

/-- How often a run of operations registers the tag `t` (R148). -/
def registrations (t : Tag) (ops : List Instr) : Nat :=
  ops.countP fun i => match i with
    | .ackReg _ tag => tag == t
    | _ => false

/-- An operation that, whatever the state, does not touch slot `q` (R145, R147): not a table operation on `q`, not
an acknowledgement for `q`, and neither `ROUTE`, whose slot the frame names, nor `RESET`. -/
def sparesSlot (q : SeqNum) (i : Instr) : Bool :=
  match i with
  | .ackReg seq _ => seq != q
  | .ackRes seq => seq != q
  | .ackRel seq => seq != q
  | .ackFrm _ _ seq _ _ => seq != q
  | .route | .reset => false
  | .chunk _ | .byte _ _ | .lenOk04 _ | .lenOk08 _ | .lenOk10 _ | .lenOk20 _ | .lenOk24 _ => true
  | .lenBad00 _ | .lenBad25 _ | .lenBad26 _ | .lenBad28 _ | .lenBad30 _ | .lenBad40 _ | .lenBad80 _ => true
  | .lenNone | .seqNext | .rxEn | .rxDis | .oprsv6 | .oprsv7 | .fwdFrm _ => true

/-- `k` steps of the block keep answering next states and end in `t`. -/
def stepsTo : Nat → State → State → Prop
  | 0, s, t => s = t
  | k + 1, s, t => ∃ u, step s = .next u ∧ stepsTo k u t

end Sys2Proof.Machine
end

