-- ==== Sys2Proof/Certificates/Slice0/Obligations.lean ====
section
/-! DEFINITION. The statements about the model, for the provers. Each docstring says which rule of spec/ the
statement formalises; a clause that rests on a decision of the spec's own (D<n>) or on a choice of the model (log
entry n) says so. -/

open Sys2Proof Sys2Proof.Machine

/-! ## Encodings (30_encoding.md) -/

/-- Words written out from R77, R83, R85, R93 and the frames of R73 and 95_test_vectors.md S1 decode to the
operations they stand for, with `ACK_TYPE` = 0x02 and `TAG_W` = 8 (log entries 1, 2). The numeric command codes are D7. -/
def Obligations.SpecWordsDecodeToTheirOperations : Prop :=
  decode Config.atReset (.rxc [0x004, 0x002, 0x000, 0x005, 0x100]) = .ok (.chunk [0x04, 0x02, 0x00, 0x05, 0x00]) ∧
  decode Config.atReset (.rxb 0x100) = .ok (.byte 0x00 true) ∧
  decode Config.atReset (.rxb 0x024) = .ok (.byte 0x24 false) ∧
  decode Config.atReset (.lb 0x24) = .ok (.lenOk24 0x24) ∧
  decode Config.atReset (.lb 0x25) = .ok (.lenBad25 0x25) ∧
  decode Config.atReset .lbe = .ok .lenNone ∧
  decode Config.atReset (.op ⟨0b000, 9, ⟨7⟩⟩) = .ok .seqNext ∧
  decode Config.atReset (.op ⟨0b001, 5, ⟨7⟩⟩) = .ok (.ackReg 5 ⟨7⟩) ∧
  decode Config.atReset (.op ⟨0b111, 5, ⟨7⟩⟩) = .ok .oprsv7 ∧
  decode Config.atReset .int = .ok .route ∧
  decode Config.atReset (.ft [0x04, 0x02, 0x00, 0x05, 0x00]) = .ok (.ackFrm 0x04 0x00 0x05 0x00 []) ∧
  decode Config.atReset (.ft [0x08, 0x50, 0x01, 0x00, 0x12, 0x34, 0x80, 0x05, 0x29])
    = .ok (.fwdFrm [0x08, 0x50, 0x01, 0x00, 0x12, 0x34, 0x80, 0x05, 0x29]) ∧
  decode Config.atReset (.rst 1) = .ok .reset ∧
  decode Config.atReset (.rst 0) = .error .resetNotAsserted

/-- R77: the twelve length-byte rows, each by its range; they are disjoint and cover all 256 values, and a byte is of
a `LENOK` row exactly if it lies in 4 to 36. -/
def Obligations.LengthRowsPartitionTheBytes : Prop :=
  ∀ b : Byte,
    (decodeLength b = some (.lenBad00 b) ↔ b.toNat ≤ 0x03) ∧
    (decodeLength b = some (.lenOk04 b) ↔ 0x04 ≤ b.toNat ∧ b.toNat ≤ 0x07) ∧
    (decodeLength b = some (.lenOk08 b) ↔ 0x08 ≤ b.toNat ∧ b.toNat ≤ 0x0F) ∧
    (decodeLength b = some (.lenOk10 b) ↔ 0x10 ≤ b.toNat ∧ b.toNat ≤ 0x1F) ∧
    (decodeLength b = some (.lenOk20 b) ↔ 0x20 ≤ b.toNat ∧ b.toNat ≤ 0x23) ∧
    (decodeLength b = some (.lenOk24 b) ↔ b.toNat = 0x24) ∧
    (decodeLength b = some (.lenBad25 b) ↔ b.toNat = 0x25) ∧
    (decodeLength b = some (.lenBad26 b) ↔ 0x26 ≤ b.toNat ∧ b.toNat ≤ 0x27) ∧
    (decodeLength b = some (.lenBad28 b) ↔ 0x28 ≤ b.toNat ∧ b.toNat ≤ 0x2F) ∧
    (decodeLength b = some (.lenBad30 b) ↔ 0x30 ≤ b.toNat ∧ b.toNat ≤ 0x3F) ∧
    (decodeLength b = some (.lenBad40 b) ↔ 0x40 ≤ b.toNat ∧ b.toNat ≤ 0x7F) ∧
    (decodeLength b = some (.lenBad80 b) ↔ 0x80 ≤ b.toNat) ∧
    (lengthRows.filter fun row => maskMatch row.mask row.value b).length = 1 ∧
    ((decodeLength b = some (.lenOk04 b) ∨ decodeLength b = some (.lenOk08 b) ∨ decodeLength b = some (.lenOk10 b) ∨
      decodeLength b = some (.lenOk20 b) ∨ decodeLength b = some (.lenOk24 b)) ↔ 4 ≤ b.toNat ∧ b.toNat ≤ 36)

/-- R83, R85, R93: the decoder reads every well-formed operation back from its encoding, with every operand at every
value, whatever the parameters are. -/
def Obligations.DecodeInvertsEncode : Prop :=
  ∀ (cfg : Config) (i : Instr), i.wf cfg = true → decode cfg (encode cfg i) = .ok i

/-- The other direction: what the decoder reads is well formed and stands for the form it was read from. A command word
is given back with its `op`, with `seq` where the operation uses it (`ACKREG`, `ACKRES`, `ACKREL`) and with `tag` where
it does (`ACKREG`); the fields an operation ignores are 0 (R84, R85). -/
def Obligations.DecodedOperationsAreWellFormed : Prop :=
  ∀ (cfg : Config) (e : Encoded) (i : Instr), decode cfg e = .ok i →
    i.wf cfg = true ∧
      ((∀ w, e ≠ .op w) → encode cfg i = e) ∧
      ∀ w, e = .op w → ∃ seq tag, encode cfg i = .op ⟨w.op, seq, tag⟩ ∧
        (w.op = 1 ∨ w.op = 2 ∨ w.op = 3 → seq = w.seq) ∧ (w.op = 1 → tag = w.tag) ∧
        (w.op ≠ 1 ∧ w.op ≠ 2 ∧ w.op ≠ 3 → seq = 0) ∧ (w.op ≠ 1 → tag = ⟨0⟩)

/-- R83 (D1, D2): a run of transfers is a chunk exactly if `rx_last` is 1 on its last transfer and 0 on every other;
the chunk is the data of its transfers in order. The empty run stands for the empty chunk (log entry 14). -/
def Obligations.RunIsAChunkExactlyWhenItsLastTransferEndsIt : Prop :=
  ∀ (cfg : Config) (run : List RxTransfer) (c : List Byte),
    decode cfg (.rxc run) = .ok (.chunk c) ↔
      c = run.map RxTransfer.data ∧
        ∀ (k : Nat) (h : k < run.length), RxTransfer.last run[k] = decide (k + 1 = run.length)

/-! ## Steps -/

/-- A step executes the operation that the next request decodes to (log entry 3), and takes the request off the list; an
inspection decodes the head of the buffer, and a frame taken in hand leaves the queue as in `ROUTE` (log entry 9). With
no request left and a frame queued it executes `ROUTE`, the router's own turn (log entry 4, the model's choice). -/
def Obligations.StepRunsTheDecodedOperation : Prop :=
  ∀ (s : State) (rest : List Request) (i : Instr),
    (∀ run, s.inputs = .rxChunk run :: rest → decode s.cfg (.rxc run) = .ok i →
      step s = exec i { s with inputs := rest }) ∧
    (∀ t, s.inputs = .rxTransfer t :: rest → decode s.cfg (.rxb t) = .ok i →
      step s = exec i { s with inputs := rest }) ∧
    (∀ w, s.inputs = .command w :: rest → decode s.cfg (.op w) = .ok i →
      step s = exec i { s with inputs := rest }) ∧
    (∀ r, s.inputs = .resetInput r :: rest → decode s.cfg (.rst r) = .ok i →
      step s = exec i { s with inputs := rest }) ∧
    (s.inputs = .routerTurn :: rest → s.frmQ ≠ [] → decode s.cfg .int = .ok i →
      step s = exec i { s with inputs := rest }) ∧
    (s.inputs = [] → s.frmQ ≠ [] → decode s.cfg .int = .ok i → step s = exec i s) ∧
    (∀ b body, s.inputs = .inspection :: rest → s.buf = b :: body → decode s.cfg (.lb b) = .ok i →
      step s = exec i { s with inputs := rest }) ∧
    (s.inputs = .inspection :: rest → s.buf = [] → decode s.cfg .lbe = .ok i →
      step s = exec i { s with inputs := rest }) ∧
    (∀ p queue, s.inputs = .frameInHand :: rest → s.frmQ = p :: queue → decode s.cfg (.ft p) = .ok i →
      step s = exec i { s with inputs := rest, frmQ := queue })

/-- Steps that execute nothing (model's own, log entries 4, 10): with no request to come and no frame waiting the
block waits (R251); a router's turn without a frame (U11) and a reset input that is not asserted are passed over; a
run of transfers that is no chunk (R83) and a command word whose tag has not `TAG_W` bits (log entry 2) are refused by
name. -/
def Obligations.StepsWithoutAnOperation : Prop :=
  ∀ (s : State) (rest : List Request),
    (s.inputs = [] → s.frmQ = [] → step s = .next s) ∧
    (s.inputs = .routerTurn :: rest → s.frmQ = [] → step s = .next { s with inputs := rest }) ∧
    (s.inputs = .frameInHand :: rest → s.frmQ = [] → step s = .next { s with inputs := rest }) ∧
    (s.inputs = .resetInput 0 :: rest → step s = .next { s with inputs := rest }) ∧
    (∀ run why, s.inputs = .rxChunk run :: rest → decode s.cfg (.rxc run) = .error why →
      step s = .refused (.undecodable why)) ∧
    (∀ w, s.inputs = .command w :: rest → w.tag.fits s.cfg = false → step s = .refused (.undecodable .tagTooWide))

/-- A bare table word placed by `withFetchWord` is what the very next step executes (log entry 8): in the state as it
was, but that a length byte stands alone at the head of the buffer with no frame in progress. -/
def Obligations.PlacedTableWordIsExecutedNext : Prop :=
  ∀ (s : State) (nbits w : Nat) (i : Instr), decodeTableWord nbits w = some i →
    step (s.withFetchWord nbits w) = exec i s ∨
      (encode s.cfg i = .lb (BitVec.ofNat 8 w) ∧
        step (s.withFetchWord nbits w) = exec i { s with buf := [BitVec.ofNat 8 w], req := 0 })

/-- The two requests of the model's own add no behaviour where the invariant holds (log entry 9): an inspection
changes nothing, and a well-formed frame taken in hand is a turn of the router. The first has the length range at its
source values, for which the length-byte rows are written out (log entry 27). -/
def Obligations.InnerCasesAloneAddNoBehaviour : Prop :=
  ∀ (s : State) (rest : List Request), s.inv = true →
    (s.cfg.sourceLengths = true → s.inputs = .inspection :: rest → step s = .next { s with inputs := rest }) ∧
    (s.inputs = .frameInHand :: rest → step s = step { s with inputs := .routerTurn :: rest })

/-! ## Reset (10_state.md R45, 44_control_ops.md R182) -/

/-- R45, R251: the values after reset. `seq_ctr` = 0 is D6, the empty frame queue D13. The parameters that have a source
value have it (R8, D24); that they stand in the state is log entry 7. -/
def Obligations.ResetStateHoldsTheResetValues : Prop :=
  State.reset.rxEn = false ∧ State.reset.buf = [] ∧ State.reset.req = 0 ∧ State.reset.skip = false ∧
  State.reset.live = false ∧ State.reset.first = true ∧ State.reset.seqCtr = 0 ∧
  (∀ q, State.reset.slot q = none) ∧ State.reset.frmQ = [] ∧ State.reset.history = [] ∧
  State.reset.cfg.lenMin = 4 ∧ State.reset.cfg.lenMax = 36 ∧ State.reset.cfg.seqMod = 256 ∧
  State.reset.cfg.slots = 256 ∧ State.reset.cfg.seqInit = 0 ∧ State.reset.ack.slots.length = 256

/-- R182, R252 (D26; that the output history starts anew is log entry 5): `RESET` completes in every state, every
element takes its reset value, `seq_ctr` the parameter `SEQ_INIT` (D6), no `DONE` or other event is emitted, and the
parameters and the requests to come stay. -/
def Obligations.ResetOperationRestoresEveryElement : Prop :=
  ∀ s : State, ∃ t, exec .reset s = .next t ∧
    t.rxEn = false ∧ t.buf = [] ∧ t.req = 0 ∧ t.skip = false ∧ t.live = false ∧ t.first = true ∧
    t.seqCtr = s.cfg.seqInit ∧ (∀ q, t.slot q = none) ∧ t.ack.slots.length = s.cfg.slots ∧ t.frmQ = [] ∧
    t.history = [] ∧ t.cfg = s.cfg ∧ t.inputs = s.inputs ∧
    exec .reset t = .next t

/-! ## The Framer (40_framer.md) -/

/-- R103 (the gate is examined once, at the start: D5): a shut gate discards the chunk whole. -/
def Obligations.ShutGateDiscardsTheChunk : Prop :=
  ∀ (c : List Byte) (s : State), s.rxEn = false → exec (.chunk c) s = .next s

/-- R102: with the gate open `CHUNK c` completes, in the one state that the loop of R102, read as a relation, reaches
from `buf ++ c`. The exit at an empty buffer is D3. -/
def Obligations.ChunkRunsTheLoopOfTheSource : Prop :=
  ∀ (c : List Byte) (s : State), s.rxEn = true →
    ∃ t n, exec (.chunk c) s = .next t ∧ LoopRuns n { s with buf := s.buf ++ c } t ∧
      ∀ m u, LoopRuns m { s with buf := s.buf ++ c } u → u = t

/-- R109: from a state at rest the loop of `CHUNK c` makes at most `1 + len(buf ++ c) / 5` passes. -/
def Obligations.ChunkLoopPassesAreBounded : Prop :=
  ∀ (c : List Byte) (s t : State) (n : Nat), s.atRest = true →
    LoopRuns n { s with buf := s.buf ++ c } t → n ≤ 1 + (s.buf ++ c).length / 5

/-- The frame of `CHUNK` (R102: "Writes `buf`, `req`, `frm_q`"; R110): it always completes, writes nothing else but
the history, and the frames it emits are appended to the queue and, in the same order, to the history (R40). -/
def Obligations.ChunkWritesOnlyTheFramer : Prop :=
  ∀ (c : List Byte) (s : State), ∃ t frames, exec (.chunk c) s = .next t ∧
    t = { s with buf := t.buf, req := t.req, frmQ := s.frmQ ++ frames, history := s.history ++ frames.map .frame }

/-- R118, R37: from a state at rest every frame `CHUNK` and `BYTE` emit is well formed. -/
def Obligations.EmittedFramesAreWellFormed : Prop :=
  ∀ (i : Instr) (s t : State), s.atRest = true → ((∃ c, i = .chunk c) ∨ ∃ b last, i = .byte b last) →
    exec i s = .next t →
    ∃ frames, t.frmQ = s.frmQ ++ frames ∧
      ∀ p ∈ frames, ∃ len body, p = len :: body ∧
        s.cfg.lenMin ≤ len.toNat ∧ len.toNat ≤ s.cfg.lenMax ∧ p.length = len.toNat + 1

/-- R119: with the gate open every byte held or delivered ends inside one emitted frame, in `buf`, or discarded by a
desync, in its order of arrival; something is discarded only at an out-of-range byte, and then `buf` is empty. -/
def Obligations.ChunkConservesTheBytes : Prop :=
  ∀ (c : List Byte) (s : State), s.rxEn = true →
    ∃ t frames dropped, exec (.chunk c) s = .next t ∧ t.frmQ = s.frmQ ++ frames ∧
      s.buf ++ c = frames.flatten ++ t.buf ++ dropped ∧
      (dropped = [] ∨
        ∃ b rest, dropped = b :: rest ∧ (b.toNat < s.cfg.lenMin ∨ s.cfg.lenMax < b.toNat) ∧ t.buf = [] ∧ t.req = 0)

/-- R106: a length-byte row in range sets `req` to the byte plus 1 and leaves everything else, the byte in `buf`
included. -/
def Obligations.ValidLengthRowsStartAFrame : Prop :=
  ∀ (len : Byte) (s : State),
    exec (.lenOk04 len) s = .next { s with req := len.toNat + 1 } ∧
    exec (.lenOk08 len) s = .next { s with req := len.toNat + 1 } ∧
    exec (.lenOk10 len) s = .next { s with req := len.toNat + 1 } ∧
    exec (.lenOk20 len) s = .next { s with req := len.toNat + 1 } ∧
    exec (.lenOk24 len) s = .next { s with req := len.toNat + 1 }

/-- R107, R234: a length-byte row out of range clears the buffer, sets `req` to 0 and changes nothing else; so does
`LENNONE` (R108, D3), which finds the buffer empty. -/
def Obligations.InvalidLengthRowsDesynchronise : Prop :=
  ∀ (len : Byte) (s : State),
    exec (.lenBad00 len) s = .next { s with buf := [], req := 0 } ∧
    exec (.lenBad25 len) s = .next { s with buf := [], req := 0 } ∧
    exec (.lenBad26 len) s = .next { s with buf := [], req := 0 } ∧
    exec (.lenBad28 len) s = .next { s with buf := [], req := 0 } ∧
    exec (.lenBad30 len) s = .next { s with buf := [], req := 0 } ∧
    exec (.lenBad40 len) s = .next { s with buf := [], req := 0 } ∧
    exec (.lenBad80 len) s = .next { s with buf := [], req := 0 } ∧
    exec .lenNone s = .next { s with buf := [], req := 0 }

/-- R86, R106 to R108: a pass of the loop of `CHUNK` executes the length-byte row that the byte at the head of the
buffer decodes to, after the optional emit; a row in range goes round again, any other ends the chunk. The length range
has its source values, for which the rows are written out (R77; log entry 27). -/
def Obligations.ChunkLoopExecutesTheLengthRow : Prop :=
  ∀ (n : Nat) (s t : State) (i : Instr), s.cfg.sourceLengths = true → s.req ≤ s.buf.length →
    (∀ b body, s.collectFrame.buf = b :: body → decode s.cfg (.lb b) = .ok i →
      exec i s.collectFrame = .next t →
      (4 ≤ b.toNat ∧ b.toNat ≤ 36 → chunkLoop (n + 1) s = chunkLoop n t) ∧
      (b.toNat < 4 ∨ 36 < b.toNat → chunkLoop (n + 1) s = t)) ∧
    (s.collectFrame.buf = [] → decode s.cfg .lbe = .ok i → exec i s.collectFrame = .next t →
      chunkLoop (n + 1) s = t)

/-- R107: frames that stand complete before an out-of-range length byte are emitted, and that byte and all that the
chunk brought after it are discarded, complete well-formed frames among them. -/
def Obligations.DesyncDiscardsTheRestOfTheChunk : Prop :=
  ∀ (c : List Byte) (s : State) (frames : List Frame) (b : Byte) (rest : List Byte),
    s.rxEn = true → s.atRest = true → (∀ p ∈ frames, frameOk s.cfg p = true) →
    (b.toNat < s.cfg.lenMin ∨ s.cfg.lenMax < b.toNat) →
    s.buf ++ c = frames.flatten ++ b :: rest →
    exec (.chunk c) s = .next { s with buf := [], req := 0, frmQ := s.frmQ ++ frames,
                                       history := s.history ++ frames.map .frame }

/-- R105, R106, R108 (D3), R111: whole frames held or delivered are emitted in order, and a trailing piece of a frame
whose length byte is in range is kept with `req` its total size. -/
def Obligations.ChunkEmitsWholeFramesAndKeepsThePartialOne : Prop :=
  ∀ (c : List Byte) (s : State) (frames : List Frame) (piece : List Byte),
    s.rxEn = true → s.atRest = true → (∀ p ∈ frames, frameOk s.cfg p = true) → s.buf ++ c = frames.flatten ++ piece →
    (piece = [] → exec (.chunk c) s = .next { s with buf := [], req := 0, frmQ := s.frmQ ++ frames,
                                                     history := s.history ++ frames.map .frame }) ∧
    (∀ b body, piece = b :: body → s.cfg.lenMin ≤ b.toNat → b.toNat ≤ s.cfg.lenMax → piece.length < b.toNat + 1 →
      exec (.chunk c) s = .next { s with buf := piece, req := b.toNat + 1, frmQ := s.frmQ ++ frames,
                                         history := s.history ++ frames.map .frame })

/-- R115, the source's first testable property: whole valid packets, cut into chunks anywhere, come out as exactly
those packets in order, and the Framer ends in IDLE. -/
def Obligations.SplitInvariance : Prop :=
  ∀ (packets : List Frame) (chunks : List (List Byte)) (s : State),
    (∀ p ∈ packets, ∃ len body, p = len :: body ∧
      s.cfg.lenMin ≤ len.toNat ∧ len.toNat ≤ s.cfg.lenMax ∧ p.length = len.toNat + 1) →
    chunks.flatten = packets.flatten → s.rxEn = true → s.req = 0 → s.buf = [] →
    runOps (chunks.map .chunk) s
      = .next { s with frmQ := s.frmQ ++ packets, history := s.history ++ packets.map .frame }

/-- R116, R236: after a desync the Framer is in IDLE, so a bad length byte at the head of a chunk that finds it in
IDLE changes nothing at all, and the next chunk is framed as from a Framer that has just been enabled. -/
def Obligations.BadFirstByteLosesOnlyItsChunk : Prop :=
  ∀ (b : Byte) (rest c : List Byte) (s : State), s.rxEn = true → s.req = 0 → s.buf = [] →
    (b.toNat < s.cfg.lenMin ∨ s.cfg.lenMax < b.toNat) → runOps [.chunk (b :: rest), .chunk c] s = exec (.chunk c) s

/-- R120: chunk boundaries are observable after a desync: some stream emits different frames as one chunk and as two. -/
def Obligations.ChunkBoundariesAreObservable : Prop :=
  ∃ (c d : List Byte) (s t u : State), s.inv = true ∧ exec (.chunk (c ++ d)) s = .next t ∧
    runOps [.chunk c, .chunk d] s = .next u ∧ t.frmQ ≠ u.frmQ

/-- R112, R114: what one transfer of the byte-serial refinement does, by the gate latched for its chunk and the phase.
The gate is sampled on the first transfer of a chunk (D5). It raises X1 exactly where it sets `skip`, at an out-of-range
byte in IDLE (R229), and nothing otherwise. -/
def Obligations.ByteFollowsThePhaseMachine : Prop :=
  ∀ (b : Byte) (last : Bool) (s : State) (live skip : Bool),
    live = (if s.first then s.rxEn else s.live) → skip = (if s.first then false else s.skip) →
    (live = false ∨ skip = true →
      exec (.byte b last) s = .next { s with live := live, skip := skip && !last, first := last } ∧
      raises (.byte b last) s = none) ∧
    (live = true → skip = false →
      (s.req = 0 → s.cfg.lenMin ≤ b.toNat → b.toNat ≤ s.cfg.lenMax →
        exec (.byte b last) s
          = .next { s with live := true, skip := false, first := last, buf := [b], req := b.toNat + 1 } ∧
        raises (.byte b last) s = none) ∧
      (s.req = 0 → (b.toNat < s.cfg.lenMin ∨ s.cfg.lenMax < b.toNat) →
        exec (.byte b last) s = .next { s with live := true, skip := !last, first := last } ∧
        raises (.byte b last) s = some .framingDesync) ∧
      (s.req ≠ 0 → s.buf.length + 1 ≠ s.req →
        exec (.byte b last) s = .next { s with live := true, skip := false, first := last, buf := s.buf ++ [b] } ∧
        raises (.byte b last) s = none) ∧
      (s.req ≠ 0 → s.buf.length + 1 = s.req →
        exec (.byte b last) s
          = .next { s with live := true, skip := false, first := last, buf := [], req := 0,
                           frmQ := s.frmQ ++ [s.buf ++ [b]], history := s.history ++ [.frame (s.buf ++ [b])] } ∧
        raises (.byte b last) s = none))

/-- R113: the byte-serial refinement does to a chunk exactly what `CHUNK` does: the same `buf`, `req`, `frm_q` and
events, and `skip` is 0 afterwards. The latched gate `live` is the value `rx_en` had at the first transfer (D5). -/
def Obligations.ByteSerialFramerEqualsChunk : Prop :=
  ∀ (c : List Byte) (s : State), s.atRest = true → s.first = true → c ≠ [] →
    ∃ t, exec (.chunk c) s = .next t ∧
      runOps (byteOps c) s = .next { t with live := s.rxEn, skip := false, first := true }

/-- R26, R23: at rest `buf` holds at most `LEN_MAX` bytes, 36 by default, and `req`, if not 0, is `FRAME_MIN` to
`FRAME_MAX`, 5 to 37 by default (R8). -/
def Obligations.BufferAtRestIsBounded : Prop :=
  ∀ s : State, s.atRest = true → s.buf.length ≤ s.cfg.lenMax ∧
    (s.req = 0 ∨ (s.cfg.frameMin ≤ s.req ∧ s.req ≤ s.cfg.frameMax))

/-- R221, R107, R234: from a state at rest with the gate open `CHUNK c` raises X1 exactly if an out-of-range byte
stands where a length byte is expected, and then it ends in IDLE, having written nothing else but `frm_q` and the
history. That it raises X1 at such a byte only, and not when it finds the buffer empty, where the pseudocode of R102
raises FramingDesync too, is log entry 12 (U16 leaves it open). -/
def Obligations.FramingDesyncIsRaisedExactlyAtABadLengthByte : Prop :=
  ∀ (c : List Byte) (s : State), s.rxEn = true → s.atRest = true →
    (raises (.chunk c) s = some .framingDesync ↔
      ∃ (frames : List Frame) (b : Byte) (rest : List Byte), (∀ p ∈ frames, frameOk s.cfg p = true) ∧
        (b.toNat < s.cfg.lenMin ∨ s.cfg.lenMax < b.toNat) ∧ s.buf ++ c = frames.flatten ++ b :: rest) ∧
    (raises (.chunk c) s = some .framingDesync →
      ∃ t, exec (.chunk c) s = .next t ∧
        t = { s with buf := [], req := 0, frmQ := t.frmQ, history := t.history })

/-! ## The SequenceAllocator (41_sequence_allocator.md) -/

/-- R130, R131: `SEQNEXT` returns the value before the increment, which is modulo `SEQ_MOD`, and changes nothing else.
With the source value 256 of `SEQ_MOD` (R8) it is the 8-bit addition of 1, from 255 to 0. -/
def Obligations.SeqNextReturnsThenIncrements : Prop :=
  ∀ s : State, ∃ t, exec .seqNext s = .next t ∧
    t = { s with seqCtr := t.seqCtr, history := s.history ++ [.seq s.seqCtr] } ∧
    t.seqCtr.toNat = (s.seqCtr.toNat + 1) % s.cfg.seqMod ∧ (s.cfg.seqMod = 256 → t.seqCtr = s.seqCtr + 1)

/-- R132: from any counter value `c` the `k`-th `SEQNEXT` returns `(c + k - 1) mod SEQ_MOD`, and `SEQ_MOD` consecutive
ones return each value below `SEQ_MOD` exactly once; `SEQ_MOD` is 256 by default (R8). -/
def Obligations.SeqNextCyclesWithoutGapsOrRepeats : Prop :=
  (∀ (n : Nat) (s : State), s.counterOk = true → ∃ t, runOps (List.replicate n .seqNext) s = .next t ∧
    t.history
      = s.history ++ (List.range n).map (fun k => .seq (BitVec.ofNat 8 ((s.seqCtr.toNat + k) % s.cfg.seqMod))) ∧
    t.seqCtr.toNat = (s.seqCtr.toNat + n) % s.cfg.seqMod) ∧
  ∀ (cfg : Config) (c v : Nat), v < cfg.seqMod →
    ((List.range cfg.seqMod).map fun k => BitVec.ofNat 8 ((c + k) % cfg.seqMod)).count (BitVec.ofNat 8 v) = 1

/-- R31: `SEQNEXT` writes `seq_ctr` by the increment modulo `SEQ_MOD`, 256 by default (R8), nothing else but `RESET`
writes it, and no operation but `SEQNEXT` depends on it. -/
def Obligations.CounterIsSeenOnlyBySeqNext : Prop :=
  (∀ (i : Instr) (v : SeqNum) (s : State), i ≠ .seqNext → i ≠ .reset →
    exec i { s with seqCtr := v } = mapNext (fun t => { t with seqCtr := v }) (exec i s)) ∧
  (∀ (v : SeqNum) (s : State), exec .reset { s with seqCtr := v } = exec .reset s) ∧
  ∀ s : State, ∃ t, exec .seqNext s = .next t ∧ t.seqCtr.toNat = (s.seqCtr.toNat + 1) % s.cfg.seqMod ∧
    (s.cfg.seqMod = 256 → t.seqCtr.toNat = (s.seqCtr.toNat + 1) % 256)

/-! ## The AcknowledgementTable (42_ack_table.md) -/

/-- R141 (every `seq` is legal: D19): `ACKREG` completes, fills its slot whatever it held, emits nothing, and leaves
every other slot and everything else as it was. It raises X6 exactly if the slot was filled (R226). -/
def Obligations.AckRegOverwritesItsSlot : Prop :=
  ∀ (seq : SeqNum) (tag : Tag) (s : State),
    (∃ t, exec (.ackReg seq tag) s = .next t ∧
      t.slot seq = some tag ∧ (∀ q, q ≠ seq → t.slot q = s.slot q) ∧ t = { s with ack := t.ack }) ∧
    (raises (.ackReg seq tag) s = some (.slotOverwrite seq) ↔ s.slot seq ≠ none) ∧
    (raises (.ackReg seq tag) s = none ↔ s.slot seq = none)

/-- R142: `ACKRES` of a filled slot emits `DONE` of its tag and empties it, leaving every other slot and everything
else, and raises nothing; of an empty slot it is a no-op that raises X5. -/
def Obligations.AckResDeliversAndEmptiesItsSlot : Prop :=
  ∀ (seq : SeqNum) (s : State),
    (∀ tag, s.slot seq = some tag → ∃ t, exec (.ackRes seq) s = .next t ∧
      t.slot seq = none ∧ (∀ q, q ≠ seq → t.slot q = s.slot q) ∧
      t = { s with ack := t.ack, history := s.history ++ [.done tag] } ∧ raises (.ackRes seq) s = none) ∧
    (s.slot seq = none → exec (.ackRes seq) s = .next s ∧ raises (.ackRes seq) s = some (.resolveMiss seq))

/-- R143 (the operation is D14): `ACKREL` empties its slot, emits nothing whatever the slot held, and leaves every other
slot and everything else as it was. -/
def Obligations.AckRelEmptiesItsSlotSilently : Prop :=
  ∀ (seq : SeqNum) (s : State), ∃ t, exec (.ackRel seq) s = .next t ∧
    t.slot seq = none ∧ (∀ q, q ≠ seq → t.slot q = s.slot q) ∧ t = { s with ack := t.ack }

/-- R146: after two registrations of a slot the first tag is gone: the state is as if only the second had been made,
and a resolve emits `DONE` of the second. -/
def Obligations.OverwrittenTagIsLost : Prop :=
  ∀ (seq : SeqNum) (first second : Tag) (s : State),
    runOps [.ackReg seq first, .ackReg seq second] s = exec (.ackReg seq second) s ∧
    ∃ t, runOps [.ackReg seq first, .ackReg seq second, .ackRes seq] s = .next t ∧
      t.history = s.history ++ [.done second] ∧ t.slot seq = none

/-- R147: an operation that is not on slot `q` neither changes what it holds nor depends on it; nor does `ROUTE` of a
frame whose byte 3 is not `q` or whose type is not `ACK_TYPE`. -/
def Obligations.SlotsAreIndependent : Prop :=
  ∀ (q : SeqNum) (v : Option Tag) (i : Instr) (s : State),
    (sparesSlot q i = true → exec i (s.setSlot q v) = mapNext (State.setSlot q v) (exec i s)) ∧
    (∀ p rest, s.frmQ = p :: rest → (p[3]? ≠ some q ∨ p[1]? ≠ some s.cfg.ackType) →
      exec .route (s.setSlot q v) = mapNext (State.setSlot q v) (exec .route s))

/-- R145, R61: a tag registered in slot `q`, with no operation on that slot between, is delivered by the next resolve of
`q`, be it `ACKRES` or the `ROUTE` of an acknowledgement frame, and the slot is then empty. -/
def Obligations.RegisteredTagIsDeliveredByTheNextResolve : Prop :=
  ∀ (q : SeqNum) (tag : Tag) (ops : List Instr) (s u : State), (∀ i ∈ ops, sparesSlot q i = true) →
    runOps (.ackReg q tag :: ops) s = .next u →
    (∃ t, exec (.ackRes q) u = .next t ∧ t.history = u.history ++ [.done tag] ∧ t.slot q = none) ∧
    (∀ code rest, u.frmQ = [4, u.cfg.ackType, 0, q, code] :: rest →
      ∃ t, exec .route u = .next t ∧ t.history = u.history ++ [.done tag, .response q code] ∧ t.slot q = none)

/-- R148, one-shot: over any run a tag is delivered at most as often as it is registered, counting the deliveries and
holdings there were at the start. -/
def Obligations.DeliveriesNeverExceedRegistrations : Prop :=
  ∀ (tag : Tag) (ops : List Instr) (s t : State), runOps ops s = .next t →
    t.deliveries tag + t.holdings tag ≤ s.deliveries tag + s.holdings tag + registrations tag ops

/-! ## The router (43_ack_router.md) -/

/-- R162: a frame whose size is not its length byte plus 1 is logged and dropped, before anything else of it is looked
at: no slot, no `RESPONSE`, no `FWD`. That is X2. -/
def Obligations.MismatchedFrameIsLoggedAndDropped : Prop :=
  ∀ (s : State) (p : Frame) (rest : List Frame), s.frmQ = p :: rest →
    (∀ len, p[0]? = some len → p.length ≠ len.toNat + 1) →
    exec .route s = .next { s with frmQ := rest, history := s.history ++ [.logLengthMismatch] } ∧
      raises .route s = some .lengthMismatch

/-- R164, R165: routing an acknowledgement of five bytes delivers the tag of a filled slot and empties it, then emits
`RESPONSE`, and raises nothing; an empty slot gives `RESPONSE` alone, and that is X5 (R225). Everything else stays. -/
def Obligations.AckFrameResolvesBeforeTheResponse : Prop :=
  ∀ (s : State) (seq code : Byte) (rest : List Frame), s.frmQ = [4, s.cfg.ackType, 0, seq, code] :: rest →
    (∀ tag, s.slot seq = some tag → ∃ t, exec .route s = .next t ∧
      t.slot seq = none ∧ (∀ q, q ≠ seq → t.slot q = s.slot q) ∧
      t = { s with frmQ := rest, ack := t.ack, history := s.history ++ [.done tag, .response seq code] } ∧
      raises .route s = none) ∧
    (s.slot seq = none →
      exec .route s = .next { s with frmQ := rest, history := s.history ++ [.response seq code] } ∧
      raises .route s = some (.resolveMiss seq))

/-- R167 (D11, D22): any acknowledgement frame of the right size is routed by its bytes 3 and 4 as the five-byte one
with subtype 0 is; the subtype, the length and further bytes are not examined. -/
def Obligations.AckFrameIsRoutedByBytesThreeAndFour : Prop :=
  ∀ (s : State) (len subtype seq code : Byte) (more : List Byte) (rest : List Frame),
    s.frmQ = (len :: s.cfg.ackType :: subtype :: seq :: code :: more) :: rest → more.length + 4 = len.toNat →
    exec .route s = exec .route { s with frmQ := [4, s.cfg.ackType, 0, seq, code] :: rest }

/-- R166: a frame of any other type is handed on whole and unchanged, touches neither the table nor anything else, and
raises nothing. -/
def Obligations.OtherFramesAreForwardedUnchanged : Prop :=
  ∀ (s : State) (len type : Byte) (payload : List Byte) (rest : List Frame),
    s.frmQ = (len :: type :: payload) :: rest → payload.length + 1 = len.toNat → type ≠ s.cfg.ackType →
    exec .route s = .next { s with frmQ := rest, history := s.history ++ [.fwd (len :: type :: payload)] } ∧
      raises .route s = none

/-- R164, R166: the two inner cases of `ROUTE`, executed on the frame in hand. -/
def Obligations.FrameRowsActOnTheFrameInHand : Prop :=
  ∀ (s : State) (len subtype seq code : Byte) (more : List Byte) (p : Frame),
    (∀ tag, s.slot seq = some tag → ∃ t, exec (.ackFrm len subtype seq code more) s = .next t ∧
      t.slot seq = none ∧ (∀ q, q ≠ seq → t.slot q = s.slot q) ∧
      t = { s with ack := t.ack, history := s.history ++ [.done tag, .response seq code] }) ∧
    (s.slot seq = none → exec (.ackFrm len subtype seq code more) s
      = .next { s with history := s.history ++ [.response seq code] }) ∧
    exec (.fwdFrm p) s = .next { s with history := s.history ++ [.fwd p] }

/-- R86, R161: `ROUTE` takes the frame at the head of the queue and, if its size is right, executes the row its type
byte decodes to. -/
def Obligations.RouteExecutesTheFrameRow : Prop :=
  ∀ (s : State) (p : Frame) (rest : List Frame) (i : Instr), s.frmQ = p :: rest →
    decode s.cfg (.ft p) = .ok i → exec .route s = exec i { s with frmQ := rest }

/-- R161, U11 (log entry 10): with an empty queue `ROUTE` is not enabled: there is no such transition. -/
def Obligations.RouteIsNotEnabledOnAnEmptyQueue : Prop :=
  ∀ s : State, s.frmQ = [] → exec .route s = .fault .routeNotEnabled

/-- R168: the result code does not steer the table: two acknowledgements that differ in it leave states that differ in
the `RESPONSE` alone. -/
def Obligations.ResultCodeDoesNotSteerTheTable : Prop :=
  ∀ (s : State) (seq code code' : Byte) (rest : List Frame), s.frmQ = [4, s.cfg.ackType, 0, seq, code] :: rest →
    ∃ t t' before, exec .route s = .next t ∧
      exec .route { s with frmQ := [4, s.cfg.ackType, 0, seq, code'] :: rest } = .next t' ∧
      t' = { t with history := t'.history } ∧
      t.history = before ++ [.response seq code] ∧ t'.history = before ++ [.response seq code']

/-- R72, R74: an outbound command has `n + 5` bytes, its length byte counts the `n + 4` that follow, and the sequence
number stands at offset 3, where an acknowledgement has it too (R73), a well-formed frame wherever 4 is a legal length
byte. The length byte is stated for `n <= 251` (R72); beyond that it is log entry 25. -/
def Obligations.SequenceNumberStandsAtOffsetThree : Prop :=
  (∀ c : Command, c.bytes.length = c.payload.length + 5 ∧ c.bytes[3]? = some c.seqnbr ∧
    (c.fits = true → ∃ len, c.bytes[0]? = some len ∧ len.toNat = 4 + c.payload.length)) ∧
  ∀ (cfg : Config) (seq : SeqNum) (code : Byte),
    (ackBytes cfg.ackType seq code)[3]? = some seq ∧
    (cfg.lenMin ≤ 4 → 4 ≤ cfg.lenMax → frameOk cfg (ackBytes cfg.ackType seq code) = true)

/-- The source's worked example (95_test_vectors.md S2), for every sequence number, code and tag: a registered command
and its acknowledgement, delivered as one chunk and routed, emit `FRAME`, `DONE` and `RESPONSE` in that order. A length
byte of 4 is legal, as it is with the source values (R8). -/
def Obligations.AcknowledgementRoundTrip : Prop :=
  ∀ (s : State) (seq : SeqNum) (code : Byte) (tag : Tag),
    s.cfg.lenMin ≤ 4 → 4 ≤ s.cfg.lenMax → s.rxEn = true → s.req = 0 → s.buf = [] → s.frmQ = [] →
    ∃ t, runOps [.ackReg seq tag, .chunk (ackBytes s.cfg.ackType seq code), .route] s = .next t ∧
      t.history = s.history ++ [.frame (ackBytes s.cfg.ackType seq code), .done tag, .response seq code] ∧
      t.slot seq = none ∧ (∀ q, q ≠ seq → t.slot q = s.slot q) ∧
      t = { s with ack := t.ack, history := t.history }

/-! ## Control operations (44_control_ops.md) -/

/-- R180: `RXEN` sets `rx_en` and changes nothing else. -/
def Obligations.RxEnOpensTheGateOnly : Prop :=
  ∀ s : State, exec .rxEn s = .next { s with rxEn := true }

/-- R181 (D4, D25): `RXDIS` clears `rx_en` and changes nothing else: `buf`, `req` and queued frames are kept. -/
def Obligations.RxDisShutsTheGateOnly : Prop :=
  ∀ s : State, exec .rxDis s = .next { s with rxEn := false }

/-- R183 (D8; log entry 16): a reserved command code, whatever its other fields, changes no state and emits `OPERR` of
the code; that is X7 (R227). -/
def Obligations.ReservedCodesOnlyReportThemselves : Prop :=
  ∀ (s : State) (seq : SeqNum) (tag : Tag),
    (tag.fits s.cfg = true →
      decode s.cfg (.op ⟨6, seq, tag⟩) = .ok .oprsv6 ∧ decode s.cfg (.op ⟨7, seq, tag⟩) = .ok .oprsv7) ∧
    exec .oprsv6 s = .next { s with history := s.history ++ [.operr 6] } ∧
    exec .oprsv7 s = .next { s with history := s.history ++ [.operr 7] } ∧
    raises .oprsv6 s = some (.reservedOp 6) ∧ raises .oprsv7 s = some (.reservedOp 7)

/-- R231, R61: `rx_en` masks the receive port alone: with it 0 every chunk is dropped, and no operation but those of the
receive port reads it, so that the command port, `ROUTE` of queued frames and reset act the same whatever it is. -/
def Obligations.OnlyTheReceivePortIsMasked : Prop :=
  (∀ (c : List Byte) (s : State), s.rxEn = false → exec (.chunk c) s = .next s) ∧
  (∀ (i : Instr) (s : State), i = .rxEn ∨ i = .rxDis ∨ i = .reset →
    exec i { s with rxEn := true } = exec i { s with rxEn := false }) ∧
  ∀ (i : Instr) (v : Bool) (s : State), (∀ c, i ≠ .chunk c) → (∀ b last, i ≠ .byte b last) →
    i ≠ .rxEn → i ≠ .rxDis → i ≠ .reset →
    exec i { s with rxEn := v } = mapNext (fun t => { t with rxEn := v }) (exec i s)

/-! ## The whole machine -/

/-- The invariant (R25, R37, R27, R30, R34) holds at reset, whatever the parameters are. -/
def Obligations.InvariantHoldsAtReset : Prop :=
  State.reset.inv = true ∧ ∀ cfg : Config, (State.resetOf cfg).inv = true

/-- R25, R37, R27, R30, R34, R8: every step keeps the invariant: I-REST, well-formed queued frames, no SKIP between
chunks, a counter below `SEQ_MOD`, and a table of `SLOTS` slots whose tags have `TAG_W` bits. -/
def Obligations.EveryStepKeepsTheInvariant : Prop :=
  ∀ s t : State, s.inv = true → step s = .next t → t.inv = true

/-- R220: every operation completes whatever its inputs. In a state that meets the invariant a step answers a next
state for every request that the ports can express; a run of transfers that is no chunk (R83) and a command word whose
tag has not `TAG_W` bits (R84; log entry 2) are none. -/
def Obligations.NoInputStopsTheBlock : Prop :=
  ∀ s : State, s.inv = true →
    (∀ run rest, s.inputs = .rxChunk run :: rest → ∃ c, decode s.cfg (.rxc run) = .ok (.chunk c)) →
    (∀ w rest, s.inputs = .command w :: rest → w.tag.fits s.cfg = true) →
    ∃ t, step s = .next t

/-- R34 (D9): the block stores tags and hands them back and never interprets them: renaming every tag commutes with
every operation. -/
def Obligations.TagsAreNeverInterpreted : Prop :=
  ∀ (f : Tag → Tag) (i : Instr) (s : State),
    exec (renameTagOperand f i) (s.renameTags f) = mapNext (State.renameTags f) (exec i s)

/-- R62, R36: frames leave the queue in the order they entered it and none is lost, duplicated or changed: only `ROUTE`
takes one, from the head, and any other operation but `RESET` leaves what is queued and may append. -/
def Obligations.FrameQueueIsFirstInFirstOut : Prop :=
  ∀ (i : Instr) (s t : State), exec i s = .next t → i ≠ .reset →
    (i = .route → ∃ p, s.frmQ = p :: t.frmQ) ∧ (i ≠ .route → ∃ frames, t.frmQ = s.frmQ ++ frames)

/-- R20, the column "Written by": each of its elements is written by the operations listed there only. The inner cases of
`CHUNK` count as `CHUNK`, `BYTE`, its refinement, as `CHUNK` too (R112), and the inner cases of `ROUTE` as `ROUTE`. The
bits `skip`, `live` and `first`, which R20 does not list, are written by `BYTE` only (R27, R28, R112; that `CHUNK` leaves
them is log entry 13). The history is append-only (R13), but that `RESET` starts it anew (log entry 5); no operation
writes the parameters or the requests. -/
def Obligations.ElementsAreWrittenOnlyByTheirWriters : Prop :=
  ∀ (i : Instr) (s t : State), exec i s = .next t → i ≠ .reset →
    (i ≠ .rxEn → i ≠ .rxDis → t.rxEn = s.rxEn) ∧
    (i ≠ .seqNext → t.seqCtr = s.seqCtr) ∧
    ((∀ seq tag, i ≠ .ackReg seq tag) → (∀ seq, i ≠ .ackRes seq) → (∀ seq, i ≠ .ackRel seq) → i ≠ .route →
      (∀ len subtype seq code more, i ≠ .ackFrm len subtype seq code more) → t.ack = s.ack) ∧
    ((∀ c, i ≠ .chunk c) → (∀ b last, i ≠ .byte b last) → i ≠ .route → t.frmQ = s.frmQ) ∧
    ((∀ b last, i ≠ .byte b last) → t.skip = s.skip ∧ t.live = s.live ∧ t.first = s.first) ∧
    (i = .seqNext ∨ i = .route ∨ i = .rxEn ∨ i = .rxDis ∨ i = .oprsv6 ∨ i = .oprsv7 ∨ (∃ seq tag, i = .ackReg seq tag) ∨
      (∃ seq, i = .ackRes seq) ∨ (∃ seq, i = .ackRel seq) ∨ (∃ len subtype seq code more,
        i = .ackFrm len subtype seq code more) ∨ (∃ p, i = .fwdFrm p) → t.buf = s.buf ∧ t.req = s.req) ∧
    (∃ events, t.history = s.history ++ events) ∧ t.cfg = s.cfg ∧ t.inputs = s.inputs

/-- R266, R267 (the router's own turns are log entry 4): with no request to come, a state that meets the invariant is
drained in as many steps as frames are queued; nothing but the queue, the table and the history has changed. -/
def Obligations.QueuedFramesAreDrained : Prop :=
  ∀ s : State, s.inv = true → s.inputs = [] →
    ∃ t, stepsTo s.frmQ.length s t ∧ t.frmQ = [] ∧ t = { s with frmQ := [], ack := t.ack, history := t.history }
end

