-- ==== Sys2Proof/Laws/Decode.lean ====
section
/-! SUPPORT. Lemmas about the decoder and the encoder: the fields of a transfer, runs of transfers, the length-byte
table. -/

namespace Sys2Proof

@[simp] theorem transferOf_data (b : Byte) (last : Bool) : RxTransfer.data (transferOf b last) = b := by
  cases last <;> revert b <;> decide

@[simp] theorem transferOf_last (b : Byte) (last : Bool) : RxTransfer.last (transferOf b last) = last := by
  cases last <;> revert b <;> decide

/-- A transfer is its byte and its `rx_last`. -/
@[simp] theorem transferOf_data_last (t : RxTransfer) : transferOf (RxTransfer.data t) (RxTransfer.last t) = t := by
  revert t; decide

/-- Every byte is of a length-byte row (R77). -/
theorem decodeLength_isSome (b : Byte) : (decodeLength b).isSome = true := by
  revert b; decide

/-- The run of a chunk that has bytes has transfers. -/
theorem chunkRun_cons (b : Byte) (rest : List Byte) : ∃ t more, chunkRun (b :: rest) = t :: more := by
  cases rest with
  | nil => exact ⟨_, _, rfl⟩
  | cons c rest => exact ⟨_, _, rfl⟩

/-- The run of a chunk carries the chunk. -/
@[simp] theorem decodeRun_chunkRun (c : List Byte) : decodeRun (chunkRun c) = .ok c := by
  induction c with
  | nil => rfl
  | cons b rest ih =>
    cases rest with
    | nil => simp [chunkRun, decodeRun]
    | cons d rest =>
      obtain ⟨t, more, h⟩ := chunkRun_cons d rest
      rw [h] at ih
      simp [chunkRun, h, decodeRun, ih]

/-- A run that decodes is the run of its chunk. -/
theorem chunkRun_of_decodeRun {run : List RxTransfer} {c : List Byte} (h : decodeRun run = .ok c) :
    chunkRun c = run := by
  induction run generalizing c with
  | nil => cases h; rfl
  | cons t rest ih =>
    cases rest with
    | nil =>
      by_cases hl : RxTransfer.last t = true
      · simp [decodeRun, hl] at h
        rw [← h, chunkRun, ← hl, transferOf_data_last]
      · simp [decodeRun, hl] at h
    | cons u rest =>
      by_cases hl : RxTransfer.last t = true
      · simp [decodeRun, hl] at h
      · rw [decodeRun, if_neg hl] at h
        cases hr : decodeRun (u :: rest) with
        | error e => simp [hr] at h
        | ok bytes =>
          simp only [hr, Except.ok.injEq] at h
          have := ih hr
          cases bytes with
          | nil => simp [chunkRun] at this
          | cons d more =>
            have hf : RxTransfer.last t = false := by simpa using hl
            rw [← h, chunkRun, this, ← hf, transferOf_data_last]

/-- Everything the decoder reads from a frame being routed: an acknowledgement, or a frame of another type (R78). -/
theorem decodeFrame_cases {cfg : Config} {p : Frame} {i : Instr} (h : decodeFrame cfg p = .ok i) :
    (∃ len subtype seq code more, p = len :: cfg.ackType :: subtype :: seq :: code :: more ∧
      more.length + 4 = len.toNat ∧ i = .ackFrm len subtype seq code more) ∨
    (∃ len type payload, p = len :: type :: payload ∧ payload.length + 1 = len.toNat ∧ type ≠ cfg.ackType ∧
      i = .fwdFrm p) := by
  match p, h with
  | [], h => simp [decodeFrame] at h
  | [len], h => simp only [decodeFrame] at h; split at h <;> simp at h
  | len :: type :: payload, h =>
    simp only [decodeFrame] at h
    by_cases hs : payload.length + 2 = len.toNat + 1
    · rw [if_neg (by simpa using hs)] at h
      by_cases ht : type = cfg.ackType
      · rw [if_pos ht] at h
        match payload, h with
        | [], h => simp at h
        | [_], h => simp at h
        | [_, _], h => simp at h
        | _ :: _ :: _ :: more, h =>
          cases h; subst ht
          exact .inl ⟨_, _, _, _, _, rfl, by simp at hs; omega, rfl⟩
      · rw [if_neg ht] at h; cases h; exact .inr ⟨_, _, _, rfl, by omega, ht, rfl⟩
    · rw [if_pos hs] at h; simp at h

/-- The row a length byte decodes to is one of the twelve and matches the byte (R77). -/
theorem decodeLength_row {b : Byte} {i : Instr} (h : decodeLength b = some i) :
    ∃ row ∈ lengthRows, maskMatch row.mask row.value b = true ∧ i = row.make b := by
  simp only [decodeLength, Option.map_eq_some_iff] at h
  obtain ⟨row, hf, rfl⟩ := h
  exact ⟨row, List.mem_of_find?_eq_some hf, by simpa using List.find?_some hf, rfl⟩

end Sys2Proof
end

