-- ==== Sys2Proof/Laws/State.lean ====
section
/-! SUPPORT. The fields of the state after each named update: one lemma per field per update, so that no later
proof unfolds a record update. -/

namespace Sys2Proof.Machine

variable (s : State)

@[simp] theorem State.emit_rxEn (e : Event) : (s.emit e).rxEn = s.rxEn := rfl
@[simp] theorem State.emit_buf (e : Event) : (s.emit e).buf = s.buf := rfl
@[simp] theorem State.emit_req (e : Event) : (s.emit e).req = s.req := rfl
@[simp] theorem State.emit_skip (e : Event) : (s.emit e).skip = s.skip := rfl
@[simp] theorem State.emit_live (e : Event) : (s.emit e).live = s.live := rfl
@[simp] theorem State.emit_first (e : Event) : (s.emit e).first = s.first := rfl
@[simp] theorem State.emit_seqCtr (e : Event) : (s.emit e).seqCtr = s.seqCtr := rfl
@[simp] theorem State.emit_ack (e : Event) : (s.emit e).ack = s.ack := rfl
@[simp] theorem State.emit_frmQ (e : Event) : (s.emit e).frmQ = s.frmQ := rfl
@[simp] theorem State.emit_history (e : Event) : (s.emit e).history = s.history ++ [e] := rfl
@[simp] theorem State.emit_cfg (e : Event) : (s.emit e).cfg = s.cfg := rfl
@[simp] theorem State.emit_inputs (e : Event) : (s.emit e).inputs = s.inputs := rfl

@[simp] theorem State.setGate_rxEn (v : Bool) : (s.setGate v).rxEn = v := rfl
@[simp] theorem State.setGate_buf (v : Bool) : (s.setGate v).buf = s.buf := rfl
@[simp] theorem State.setGate_req (v : Bool) : (s.setGate v).req = s.req := rfl
@[simp] theorem State.setGate_skip (v : Bool) : (s.setGate v).skip = s.skip := rfl
@[simp] theorem State.setGate_live (v : Bool) : (s.setGate v).live = s.live := rfl
@[simp] theorem State.setGate_first (v : Bool) : (s.setGate v).first = s.first := rfl
@[simp] theorem State.setGate_seqCtr (v : Bool) : (s.setGate v).seqCtr = s.seqCtr := rfl
@[simp] theorem State.setGate_ack (v : Bool) : (s.setGate v).ack = s.ack := rfl
@[simp] theorem State.setGate_frmQ (v : Bool) : (s.setGate v).frmQ = s.frmQ := rfl
@[simp] theorem State.setGate_history (v : Bool) : (s.setGate v).history = s.history := rfl
@[simp] theorem State.setGate_cfg (v : Bool) : (s.setGate v).cfg = s.cfg := rfl
@[simp] theorem State.setGate_inputs (v : Bool) : (s.setGate v).inputs = s.inputs := rfl

@[simp] theorem State.appendBuf_rxEn (c : List Byte) : (s.appendBuf c).rxEn = s.rxEn := rfl
@[simp] theorem State.appendBuf_buf (c : List Byte) : (s.appendBuf c).buf = s.buf ++ c := rfl
@[simp] theorem State.appendBuf_req (c : List Byte) : (s.appendBuf c).req = s.req := rfl
@[simp] theorem State.appendBuf_skip (c : List Byte) : (s.appendBuf c).skip = s.skip := rfl
@[simp] theorem State.appendBuf_live (c : List Byte) : (s.appendBuf c).live = s.live := rfl
@[simp] theorem State.appendBuf_first (c : List Byte) : (s.appendBuf c).first = s.first := rfl
@[simp] theorem State.appendBuf_seqCtr (c : List Byte) : (s.appendBuf c).seqCtr = s.seqCtr := rfl
@[simp] theorem State.appendBuf_ack (c : List Byte) : (s.appendBuf c).ack = s.ack := rfl
@[simp] theorem State.appendBuf_frmQ (c : List Byte) : (s.appendBuf c).frmQ = s.frmQ := rfl
@[simp] theorem State.appendBuf_history (c : List Byte) : (s.appendBuf c).history = s.history := rfl
@[simp] theorem State.appendBuf_cfg (c : List Byte) : (s.appendBuf c).cfg = s.cfg := rfl
@[simp] theorem State.appendBuf_inputs (c : List Byte) : (s.appendBuf c).inputs = s.inputs := rfl

@[simp] theorem State.pushFrame_rxEn (p : Frame) : (s.pushFrame p).rxEn = s.rxEn := rfl
@[simp] theorem State.pushFrame_buf (p : Frame) : (s.pushFrame p).buf = s.buf := rfl
@[simp] theorem State.pushFrame_req (p : Frame) : (s.pushFrame p).req = s.req := rfl
@[simp] theorem State.pushFrame_skip (p : Frame) : (s.pushFrame p).skip = s.skip := rfl
@[simp] theorem State.pushFrame_live (p : Frame) : (s.pushFrame p).live = s.live := rfl
@[simp] theorem State.pushFrame_first (p : Frame) : (s.pushFrame p).first = s.first := rfl
@[simp] theorem State.pushFrame_seqCtr (p : Frame) : (s.pushFrame p).seqCtr = s.seqCtr := rfl
@[simp] theorem State.pushFrame_ack (p : Frame) : (s.pushFrame p).ack = s.ack := rfl
@[simp] theorem State.pushFrame_frmQ (p : Frame) : (s.pushFrame p).frmQ = s.frmQ ++ [p] := rfl
@[simp] theorem State.pushFrame_history (p : Frame) : (s.pushFrame p).history = s.history ++ [.frame p] := rfl
@[simp] theorem State.pushFrame_cfg (p : Frame) : (s.pushFrame p).cfg = s.cfg := rfl
@[simp] theorem State.pushFrame_inputs (p : Frame) : (s.pushFrame p).inputs = s.inputs := rfl

@[simp] theorem State.emitFrame_rxEn : (s.emitFrame).rxEn = s.rxEn := rfl
@[simp] theorem State.emitFrame_buf : (s.emitFrame).buf = s.buf.drop s.req := rfl
@[simp] theorem State.emitFrame_req : (s.emitFrame).req = s.req := rfl
@[simp] theorem State.emitFrame_skip : (s.emitFrame).skip = s.skip := rfl
@[simp] theorem State.emitFrame_live : (s.emitFrame).live = s.live := rfl
@[simp] theorem State.emitFrame_first : (s.emitFrame).first = s.first := rfl
@[simp] theorem State.emitFrame_seqCtr : (s.emitFrame).seqCtr = s.seqCtr := rfl
@[simp] theorem State.emitFrame_ack : (s.emitFrame).ack = s.ack := rfl
@[simp] theorem State.emitFrame_frmQ : (s.emitFrame).frmQ = s.frmQ ++ [s.buf.take s.req] := rfl
@[simp] theorem State.emitFrame_history : (s.emitFrame).history = s.history ++ [.frame (s.buf.take s.req)] := rfl
@[simp] theorem State.emitFrame_cfg : (s.emitFrame).cfg = s.cfg := rfl
@[simp] theorem State.emitFrame_inputs : (s.emitFrame).inputs = s.inputs := rfl

@[simp] theorem State.startFrame_rxEn (b : Byte) : (s.startFrame b).rxEn = s.rxEn := rfl
@[simp] theorem State.startFrame_buf (b : Byte) : (s.startFrame b).buf = s.buf := rfl
@[simp] theorem State.startFrame_req (b : Byte) : (s.startFrame b).req = reqOfLength b := rfl
@[simp] theorem State.startFrame_skip (b : Byte) : (s.startFrame b).skip = s.skip := rfl
@[simp] theorem State.startFrame_live (b : Byte) : (s.startFrame b).live = s.live := rfl
@[simp] theorem State.startFrame_first (b : Byte) : (s.startFrame b).first = s.first := rfl
@[simp] theorem State.startFrame_seqCtr (b : Byte) : (s.startFrame b).seqCtr = s.seqCtr := rfl
@[simp] theorem State.startFrame_ack (b : Byte) : (s.startFrame b).ack = s.ack := rfl
@[simp] theorem State.startFrame_frmQ (b : Byte) : (s.startFrame b).frmQ = s.frmQ := rfl
@[simp] theorem State.startFrame_history (b : Byte) : (s.startFrame b).history = s.history := rfl
@[simp] theorem State.startFrame_cfg (b : Byte) : (s.startFrame b).cfg = s.cfg := rfl
@[simp] theorem State.startFrame_inputs (b : Byte) : (s.startFrame b).inputs = s.inputs := rfl

@[simp] theorem State.desync_rxEn : (s.desync).rxEn = s.rxEn := rfl
@[simp] theorem State.desync_buf : (s.desync).buf = [] := rfl
@[simp] theorem State.desync_req : (s.desync).req = 0 := rfl
@[simp] theorem State.desync_skip : (s.desync).skip = s.skip := rfl
@[simp] theorem State.desync_live : (s.desync).live = s.live := rfl
@[simp] theorem State.desync_first : (s.desync).first = s.first := rfl
@[simp] theorem State.desync_seqCtr : (s.desync).seqCtr = s.seqCtr := rfl
@[simp] theorem State.desync_ack : (s.desync).ack = s.ack := rfl
@[simp] theorem State.desync_frmQ : (s.desync).frmQ = s.frmQ := rfl
@[simp] theorem State.desync_history : (s.desync).history = s.history := rfl
@[simp] theorem State.desync_cfg : (s.desync).cfg = s.cfg := rfl
@[simp] theorem State.desync_inputs : (s.desync).inputs = s.inputs := rfl

@[simp] theorem State.openFrame_rxEn (b : Byte) : (s.openFrame b).rxEn = s.rxEn := rfl
@[simp] theorem State.openFrame_buf (b : Byte) : (s.openFrame b).buf = [b] := rfl
@[simp] theorem State.openFrame_req (b : Byte) : (s.openFrame b).req = reqOfLength b := rfl
@[simp] theorem State.openFrame_skip (b : Byte) : (s.openFrame b).skip = s.skip := rfl
@[simp] theorem State.openFrame_live (b : Byte) : (s.openFrame b).live = s.live := rfl
@[simp] theorem State.openFrame_first (b : Byte) : (s.openFrame b).first = s.first := rfl
@[simp] theorem State.openFrame_seqCtr (b : Byte) : (s.openFrame b).seqCtr = s.seqCtr := rfl
@[simp] theorem State.openFrame_ack (b : Byte) : (s.openFrame b).ack = s.ack := rfl
@[simp] theorem State.openFrame_frmQ (b : Byte) : (s.openFrame b).frmQ = s.frmQ := rfl
@[simp] theorem State.openFrame_history (b : Byte) : (s.openFrame b).history = s.history := rfl
@[simp] theorem State.openFrame_cfg (b : Byte) : (s.openFrame b).cfg = s.cfg := rfl
@[simp] theorem State.openFrame_inputs (b : Byte) : (s.openFrame b).inputs = s.inputs := rfl

@[simp] theorem State.closeFrame_rxEn : (s.closeFrame).rxEn = s.rxEn := rfl
@[simp] theorem State.closeFrame_buf : (s.closeFrame).buf = [] := rfl
@[simp] theorem State.closeFrame_req : (s.closeFrame).req = 0 := rfl
@[simp] theorem State.closeFrame_skip : (s.closeFrame).skip = s.skip := rfl
@[simp] theorem State.closeFrame_live : (s.closeFrame).live = s.live := rfl
@[simp] theorem State.closeFrame_first : (s.closeFrame).first = s.first := rfl
@[simp] theorem State.closeFrame_seqCtr : (s.closeFrame).seqCtr = s.seqCtr := rfl
@[simp] theorem State.closeFrame_ack : (s.closeFrame).ack = s.ack := rfl
@[simp] theorem State.closeFrame_frmQ : (s.closeFrame).frmQ = s.frmQ ++ [s.buf] := rfl
@[simp] theorem State.closeFrame_history : (s.closeFrame).history = s.history ++ [.frame s.buf] := rfl
@[simp] theorem State.closeFrame_cfg : (s.closeFrame).cfg = s.cfg := rfl
@[simp] theorem State.closeFrame_inputs : (s.closeFrame).inputs = s.inputs := rfl

@[simp] theorem State.setSlot_rxEn (q : SeqNum) (v : Option Tag) : (s.setSlot q v).rxEn = s.rxEn := rfl
@[simp] theorem State.setSlot_buf (q : SeqNum) (v : Option Tag) : (s.setSlot q v).buf = s.buf := rfl
@[simp] theorem State.setSlot_req (q : SeqNum) (v : Option Tag) : (s.setSlot q v).req = s.req := rfl
@[simp] theorem State.setSlot_skip (q : SeqNum) (v : Option Tag) : (s.setSlot q v).skip = s.skip := rfl
@[simp] theorem State.setSlot_live (q : SeqNum) (v : Option Tag) : (s.setSlot q v).live = s.live := rfl
@[simp] theorem State.setSlot_first (q : SeqNum) (v : Option Tag) : (s.setSlot q v).first = s.first := rfl
@[simp] theorem State.setSlot_seqCtr (q : SeqNum) (v : Option Tag) : (s.setSlot q v).seqCtr = s.seqCtr := rfl
@[simp] theorem State.setSlot_slots (q : SeqNum) (v : Option Tag) :
    (s.setSlot q v).ack.slots = s.ack.slots.set q.toNat v := rfl
@[simp] theorem State.setSlot_frmQ (q : SeqNum) (v : Option Tag) : (s.setSlot q v).frmQ = s.frmQ := rfl
@[simp] theorem State.setSlot_history (q : SeqNum) (v : Option Tag) : (s.setSlot q v).history = s.history := rfl
@[simp] theorem State.setSlot_cfg (q : SeqNum) (v : Option Tag) : (s.setSlot q v).cfg = s.cfg := rfl
@[simp] theorem State.setSlot_inputs (q : SeqNum) (v : Option Tag) : (s.setSlot q v).inputs = s.inputs := rfl

@[simp] theorem State.advanceCounter_rxEn : (s.advanceCounter).rxEn = s.rxEn := rfl
@[simp] theorem State.advanceCounter_buf : (s.advanceCounter).buf = s.buf := rfl
@[simp] theorem State.advanceCounter_req : (s.advanceCounter).req = s.req := rfl
@[simp] theorem State.advanceCounter_skip : (s.advanceCounter).skip = s.skip := rfl
@[simp] theorem State.advanceCounter_live : (s.advanceCounter).live = s.live := rfl
@[simp] theorem State.advanceCounter_first : (s.advanceCounter).first = s.first := rfl
@[simp] theorem State.advanceCounter_seqCtr :
    (s.advanceCounter).seqCtr = BitVec.ofNat 8 ((s.seqCtr.toNat + 1) % s.cfg.seqMod) := rfl
@[simp] theorem State.advanceCounter_ack : (s.advanceCounter).ack = s.ack := rfl
@[simp] theorem State.advanceCounter_frmQ : (s.advanceCounter).frmQ = s.frmQ := rfl
@[simp] theorem State.advanceCounter_history : (s.advanceCounter).history = s.history := rfl
@[simp] theorem State.advanceCounter_cfg : (s.advanceCounter).cfg = s.cfg := rfl
@[simp] theorem State.advanceCounter_inputs : (s.advanceCounter).inputs = s.inputs := rfl

@[simp] theorem State.setQueue_rxEn (q : List Frame) : (s.setQueue q).rxEn = s.rxEn := rfl
@[simp] theorem State.setQueue_buf (q : List Frame) : (s.setQueue q).buf = s.buf := rfl
@[simp] theorem State.setQueue_req (q : List Frame) : (s.setQueue q).req = s.req := rfl
@[simp] theorem State.setQueue_skip (q : List Frame) : (s.setQueue q).skip = s.skip := rfl
@[simp] theorem State.setQueue_live (q : List Frame) : (s.setQueue q).live = s.live := rfl
@[simp] theorem State.setQueue_first (q : List Frame) : (s.setQueue q).first = s.first := rfl
@[simp] theorem State.setQueue_seqCtr (q : List Frame) : (s.setQueue q).seqCtr = s.seqCtr := rfl
@[simp] theorem State.setQueue_ack (q : List Frame) : (s.setQueue q).ack = s.ack := rfl
@[simp] theorem State.setQueue_frmQ (q : List Frame) : (s.setQueue q).frmQ = q := rfl
@[simp] theorem State.setQueue_history (q : List Frame) : (s.setQueue q).history = s.history := rfl
@[simp] theorem State.setQueue_cfg (q : List Frame) : (s.setQueue q).cfg = s.cfg := rfl
@[simp] theorem State.setQueue_inputs (q : List Frame) : (s.setQueue q).inputs = s.inputs := rfl

@[simp] theorem State.startSkip_rxEn : (s.startSkip).rxEn = s.rxEn := rfl
@[simp] theorem State.startSkip_buf : (s.startSkip).buf = s.buf := rfl
@[simp] theorem State.startSkip_req : (s.startSkip).req = s.req := rfl
@[simp] theorem State.startSkip_skip : (s.startSkip).skip = true := rfl
@[simp] theorem State.startSkip_live : (s.startSkip).live = s.live := rfl
@[simp] theorem State.startSkip_first : (s.startSkip).first = s.first := rfl
@[simp] theorem State.startSkip_seqCtr : (s.startSkip).seqCtr = s.seqCtr := rfl
@[simp] theorem State.startSkip_ack : (s.startSkip).ack = s.ack := rfl
@[simp] theorem State.startSkip_frmQ : (s.startSkip).frmQ = s.frmQ := rfl
@[simp] theorem State.startSkip_history : (s.startSkip).history = s.history := rfl
@[simp] theorem State.startSkip_cfg : (s.startSkip).cfg = s.cfg := rfl
@[simp] theorem State.startSkip_inputs : (s.startSkip).inputs = s.inputs := rfl

@[simp] theorem State.endTransfer_rxEn (last : Bool) : (s.endTransfer last).rxEn = s.rxEn := rfl
@[simp] theorem State.endTransfer_buf (last : Bool) : (s.endTransfer last).buf = s.buf := rfl
@[simp] theorem State.endTransfer_req (last : Bool) : (s.endTransfer last).req = s.req := rfl
@[simp] theorem State.endTransfer_skip (last : Bool) : (s.endTransfer last).skip = (s.skip && !last) := rfl
@[simp] theorem State.endTransfer_live (last : Bool) : (s.endTransfer last).live = s.live := rfl
@[simp] theorem State.endTransfer_first (last : Bool) : (s.endTransfer last).first = last := rfl
@[simp] theorem State.endTransfer_seqCtr (last : Bool) : (s.endTransfer last).seqCtr = s.seqCtr := rfl
@[simp] theorem State.endTransfer_ack (last : Bool) : (s.endTransfer last).ack = s.ack := rfl
@[simp] theorem State.endTransfer_frmQ (last : Bool) : (s.endTransfer last).frmQ = s.frmQ := rfl
@[simp] theorem State.endTransfer_history (last : Bool) : (s.endTransfer last).history = s.history := rfl
@[simp] theorem State.endTransfer_cfg (last : Bool) : (s.endTransfer last).cfg = s.cfg := rfl
@[simp] theorem State.endTransfer_inputs (last : Bool) : (s.endTransfer last).inputs = s.inputs := rfl

end Sys2Proof.Machine
end

