-- ==== Sys2Proof/Laws/Ops.lean ====
section
/-! SUPPORT. What the shared operations over the table and the history do: one lemma for each case of each operation,
so that no later proof unfolds them. -/

namespace Sys2Proof.Machine

variable (s : State) (q : SeqNum) (v : Option Tag)

/-- A slot is read from the table alone. -/
theorem slot_congr {s t : State} (h : s.ack = t.ack) (q : SeqNum) : s.slot q = t.slot q := by
  simp [State.slot, h]

@[simp] theorem slot_emit (e : Event) : (s.emit e).slot q = s.slot q := rfl

@[simp] theorem slot_setQueue (frames : List Frame) : (s.setQueue frames).slot q = s.slot q := rfl

@[simp] theorem slot_setSlot_self : (s.setSlot q v).slot q = v := by simp [State.slot]

@[simp] theorem slot_setSlot_of_ne {q r : SeqNum} (h : r ≠ q) : (s.setSlot q v).slot r = s.slot r := by
  have : q.toNat ≠ r.toNat := fun e => h (BitVec.eq_of_toNat_eq e.symm)
  simp [State.slot, this]

/-- Every slot of the table after reset is empty (R45). -/
@[simp] theorem slot_resetOf (cfg : Config) : (State.resetOf cfg).slot q = none := by
  simp [State.slot, State.resetOf, Table.empty]

/-- Two tables with the same slots are the same. -/
theorem table_ext {a b : Table} (h : a.slots = b.slots) : a = b := by
  cases a; cases b; cases h; rfl

/-- The counter stays in its range, and counts on modulo `SEQ_MOD` (R130). -/
theorem advanceCounter_toNat : s.advanceCounter.seqCtr.toNat = (s.seqCtr.toNat + 1) % s.cfg.seqMod := by
  have h := Nat.mod_lt (s.seqCtr.toNat + 1) s.cfg.seqMod_pos
  have := s.cfg.seqMod_le
  simp only [State.advanceCounter_seqCtr, BitVec.toNat_ofNat]
  exact Nat.mod_eq_of_lt (by omega)

/-- A write of a slot writes nothing but the table. -/
theorem setSlot_eq : s.setSlot q v = { s with ack := (s.setSlot q v).ack } := rfl

/-- Writing a slot twice keeps the second value. -/
@[simp] theorem setSlot_setSlot (w : Option Tag) : (s.setSlot q v).setSlot q w = s.setSlot q w := by
  simp [State.setSlot]

/-- Writes of different slots commute. -/
theorem setSlot_comm {q r : SeqNum} (h : r ≠ q) (w : Option Tag) :
    (s.setSlot q v).setSlot r w = (s.setSlot r w).setSlot q v := by
  have : q.toNat ≠ r.toNat := fun e => h (BitVec.eq_of_toNat_eq e.symm)
  simp [State.setSlot, List.set_comm _ _ this]

/-- `resolve` of a filled slot (R142). -/
theorem resolve_filled {t : Tag} (h : s.slot q = some t) : s.resolve q = (s.emit (.done t)).setSlot q none := by
  simp [State.resolve, h]

/-- `resolve` of an empty slot (R142). -/
theorem resolve_empty (h : s.slot q = none) : s.resolve q = s := by simp [State.resolve, h]

/-- Everything `resolve` can do: nothing, or `DONE` and an emptied slot. -/
theorem resolve_cases :
    (s.slot q = none ∧ s.resolve q = s) ∨
      ∃ t, s.slot q = some t ∧ s.resolve q = (s.emit (.done t)).setSlot q none := by
  cases h : s.slot q with
  | none => exact .inl ⟨rfl, resolve_empty s q h⟩
  | some t => exact .inr ⟨t, rfl, resolve_filled s q h⟩

/-- After `resolve` the slot is empty. -/
@[simp] theorem resolve_slot_self : (s.resolve q).slot q = none := by
  obtain ⟨h, e⟩ | ⟨t, -, e⟩ := resolve_cases s q <;> simp [*]

/-- `resolve` leaves every other slot (R147). -/
@[simp] theorem resolve_slot_of_ne {q r : SeqNum} (h : r ≠ q) : (s.resolve q).slot r = s.slot r := by
  obtain ⟨-, e⟩ | ⟨t, -, e⟩ := resolve_cases s q <;> simp [e, h]

/-- `resolve` writes the table and the history only. -/
theorem resolve_eq : s.resolve q = { s with ack := (s.resolve q).ack, history := (s.resolve q).history } := by
  obtain ⟨-, e⟩ | ⟨t, -, e⟩ := resolve_cases s q
  · rw [e]
  · rw [e]; rfl

/-- `resolve` of one slot and a write of another commute (R147). -/
theorem resolve_setSlot {q r : SeqNum} (h : r ≠ q) : (s.setSlot q v).resolve r = (s.resolve r).setSlot q v := by
  cases hs : s.slot r with
  | none => rw [resolve_empty _ _ hs, resolve_empty _ _ (by simp [h, hs])]
  | some t =>
    rw [resolve_filled _ _ hs, resolve_filled _ _ (t := t) (by simp [h, hs])]
    exact setSlot_comm (s.emit (.done t)) v h none

/-- `resolve` reads the table only: fields it does not write pass through it. -/
theorem resolve_congr {s t : State} (ha : s.ack = t.ack) (hh : s.history = t.history) :
    (s.resolve q).ack = (t.resolve q).ack ∧ (s.resolve q).history = (t.resolve q).history := by
  have hs := slot_congr ha q
  cases h : t.slot q with
  | none => rw [resolve_empty _ _ h, resolve_empty _ _ (hs.trans h)]; exact ⟨ha, hh⟩
  | some tag =>
    rw [resolve_filled _ _ h, resolve_filled _ _ (hs.trans h)]
    simp [State.setSlot, ha, hh]

/-- The acknowledgement path writes the table and the history only. -/
theorem acknowledge_eq (code : Byte) :
    s.acknowledge q code
      = { s with ack := (s.acknowledge q code).ack, history := (s.acknowledge q code).history } := by
  simp only [State.acknowledge]
  rw [resolve_eq]
  rfl

end Sys2Proof.Machine
end

