-- ==== Sys2Proof/Laws/Framer.lean ====
section
/-! SUPPORT. The Framer: its states at rest, the passes of the loop of `CHUNK`, and what one more byte of a chunk
changes. -/

namespace Sys2Proof.Machine

/-- The length test in numbers (R77). -/
theorem lengthOk_iff (cfg : Config) (b : Byte) :
    lengthOk cfg b = true ↔ cfg.lenMin ≤ b.toNat ∧ b.toNat ≤ cfg.lenMax := by
  exact decide_eq_true_iff

/-- The failing length test in numbers (R77). -/
theorem lengthOk_eq_false_iff (cfg : Config) (b : Byte) :
    lengthOk cfg b = false ↔ b.toNat < cfg.lenMin ∨ cfg.lenMax < b.toNat := by
  rw [← Bool.not_eq_true, lengthOk_iff]; omega

/-- A legal length byte is at least 4. -/
theorem four_le_of_lengthOk {cfg : Config} {b : Byte} (h : lengthOk cfg b = true) : 4 ≤ b.toNat := by
  have := (lengthOk_iff cfg b).1 h
  have := cfg.fieldsFit
  omega

/-- What a well-formed frame is (R37). -/
theorem frameOk_iff (cfg : Config) (p : Frame) :
    frameOk cfg p = true ↔ ∃ len body, p = len :: body ∧ lengthOk cfg len = true ∧ body.length = len.toNat := by
  cases p <;> simp [frameOk]

/-- A state is at rest in IDLE or in COLLECT (R25). -/
theorem atRest_cases {s : State} (h : s.atRest = true) :
    (s.req = 0 ∧ s.buf = []) ∨
      ∃ b body, s.buf = b :: body ∧ lengthOk s.cfg b = true ∧ s.req = b.toNat + 1 ∧ body.length + 1 < s.req := by
  simp only [State.atRest, Bool.or_eq_true, State.isIdle, Bool.and_eq_true, beq_iff_eq, List.isEmpty_iff] at h
  refine h.imp id fun h => ?_
  cases hb : s.buf with
  | nil => simp [State.isCollect, hb] at h
  | cons b body => simp [State.isCollect, hb, reqOfLength] at h; exact ⟨b, body, rfl, h.1.1, h.1.2, h.2⟩

/-- A state in IDLE is at rest. -/
theorem atRest_idle {s : State} (hr : s.req = 0) (hb : s.buf = []) : s.atRest = true := by
  simp [State.atRest, State.isIdle, hr, hb]

/-- A state in COLLECT is at rest. -/
theorem atRest_collect {s : State} {b : Byte} {body : List Byte} (hb : s.buf = b :: body)
    (hok : lengthOk s.cfg b = true) (hr : s.req = b.toNat + 1) (hl : body.length + 1 < s.req) : s.atRest = true := by
  simp only [State.atRest, Bool.or_eq_true]
  exact .inr (by simp [State.isCollect, hb, hok, ← hr, reqOfLength, hl])

/-- Resting depends on the parameters, `buf` and `req` only. -/
theorem atRest_congr {s t : State} (hc : s.cfg = t.cfg) (hb : s.buf = t.buf) (hr : s.req = t.req) :
    s.atRest = t.atRest := by
  simp [State.atRest, State.isIdle, State.isCollect, hc, hb, hr]

/-- With the length range at its source values the row of a byte says what the length test says: a `LENOK` row starts a
frame, a `LENBAD` row desynchronises (R77, R106, R107). -/
theorem decodeLength_exec {cfg : Config} (hc : cfg.sourceLengths = true) {b : Byte} {i : Instr}
    (h : decodeLength b = some i) :
    (lengthOk cfg b = true ∧ ∀ s, exec i s = .next (s.startFrame b)) ∨
      (lengthOk cfg b = false ∧ ∀ s, exec i s = .next s.desync) := by
  have hlen : cfg.lenMin = 4 ∧ cfg.lenMax = 36 := by simpa [Config.sourceLengths] using hc
  have key : ∀ row ∈ lengthRows, ∀ b, maskMatch row.mask row.value b = true →
      (decide (4 ≤ b.toNat ∧ b.toNat ≤ 36) = true ↔ row.value ∈ [0x04, 0x08, 0x10, 0x20, (0x24 : Byte)]) := by decide
  obtain ⟨row, hm, hmm, rfl⟩ := decodeLength_row h
  have hk := key row hm b hmm
  rw [lengthOk_iff, lengthOk_eq_false_iff, hlen.1, hlen.2]
  simp only [lengthRows, List.cons_append, List.nil_append, List.mem_cons, List.not_mem_nil, or_false] at hm
  rcases hm with rfl|rfl|rfl|rfl|rfl|rfl|rfl|rfl|rfl|rfl|rfl|rfl
  all_goals first
    | exact .inl ⟨of_decide_eq_true (hk.2 (by decide)), fun _ => rfl⟩
    | exact .inr ⟨by have := mt (fun h => hk.1 (decide_eq_true h)) (by decide); omega, fun _ => rfl⟩

/-! ### Passes of the loop -/

/-- The loop ends when the buffer holds less than `req` (R105). -/
theorem chunkLoop_stop {s : State} (h : s.buf.length < s.req) (n : Nat) : chunkLoop n s = s := by
  cases n <;> simp [chunkLoop, h]

/-- A pass that finds a length byte in range goes round again (R106). -/
theorem chunkLoop_lengthOk {s : State} {b : Byte} {body : List Byte} (h : s.req ≤ s.buf.length)
    (hb : s.collectFrame.buf = b :: body) (hok : lengthOk s.cfg b = true) (n : Nat) :
    chunkLoop (n + 1) s = chunkLoop n (s.collectFrame.startFrame b) := by
  simp [chunkLoop, Nat.not_lt.2 h, hb, hok]

/-- A pass that finds a length byte out of range ends the chunk (R107). -/
theorem chunkLoop_lengthBad {s : State} {b : Byte} {body : List Byte} (h : s.req ≤ s.buf.length)
    (hb : s.collectFrame.buf = b :: body) (hbad : lengthOk s.cfg b = false) (n : Nat) :
    chunkLoop (n + 1) s = s.collectFrame.desync := by
  simp [chunkLoop, Nat.not_lt.2 h, hb, hbad]

/-- A pass that finds no byte ends the chunk (R108). -/
theorem chunkLoop_nothing {s : State} (h : s.req ≤ s.buf.length) (hb : s.collectFrame.buf = []) (n : Nat) :
    chunkLoop (n + 1) s = s.collectFrame.desync := by
  simp [chunkLoop, Nat.not_lt.2 h, hb]

/-- With no frame in progress a pass emits nothing. -/
theorem collectFrame_of_req_zero {s : State} (h : s.req = 0) : s.collectFrame = s := by
  simp [State.collectFrame, h]

/-- With a frame in progress a pass emits it. -/
theorem collectFrame_of_req_pos {s : State} (h : 0 < s.req) : s.collectFrame = s.emitFrame := by
  simp [State.collectFrame, h]

@[simp] theorem collectFrame_cfg (s : State) : s.collectFrame.cfg = s.cfg := by
  unfold State.collectFrame; split <;> rfl

@[simp] theorem latchGate_cfg (s : State) : s.latchGate.cfg = s.cfg := by
  unfold State.latchGate; split <;> rfl

@[simp] theorem takeByte_cfg (s : State) (b : Byte) : (s.takeByte b).cfg = s.cfg := by
  unfold State.takeByte; (repeat' split) <;> rfl

/-- Once five bytes or more are asked for, `len(buf) / 5` passes are enough and more change nothing (R109). -/
theorem chunkLoop_enough (n : Nat) : ∀ {s : State}, 5 ≤ s.req → s.buf.length / 5 ≤ n → ∀ k,
    chunkLoop (n + k) s = chunkLoop n s := by
  induction n with
  | zero =>
    intro s hr hn k
    rw [chunkLoop_stop (by omega), chunkLoop_stop (by omega)]
  | succ n ih =>
    intro s hr hn k
    rw [show n + 1 + k = (n + k) + 1 by omega]
    by_cases hl : s.buf.length < s.req
    · rw [chunkLoop_stop hl, chunkLoop_stop hl]
    · have hl := Nat.not_lt.1 hl
      cases hb : s.collectFrame.buf with
      | nil => rw [chunkLoop_nothing hl hb, chunkLoop_nothing hl hb]
      | cons b body =>
        cases hok : lengthOk s.cfg b with
        | false => rw [chunkLoop_lengthBad hl hb hok, chunkLoop_lengthBad hl hb hok]
        | true =>
          rw [chunkLoop_lengthOk hl hb hok, chunkLoop_lengthOk hl hb hok]
          have hlen : s.collectFrame.buf.length = s.buf.length - s.req := by
            rw [collectFrame_of_req_pos (by omega)]; simp
          refine ih (s := s.collectFrame.startFrame b) ?_ ?_ k
          · have := four_le_of_lengthOk hok; simp [reqOfLength]; omega
          · rw [State.startFrame_buf, hlen]; omega

/-- The same from IDLE, where the first pass emits nothing. -/
theorem chunkLoop_enough_idle {s : State} {n : Nat} (hr : s.req = 0) (hn : s.buf.length / 5 ≤ n) (k : Nat) :
    chunkLoop (n + 1 + k) s = chunkLoop (n + 1) s := by
  rw [show n + 1 + k = (n + k) + 1 by omega]
  cases hb : s.buf with
  | nil =>
    rw [chunkLoop_nothing (by omega) (by rw [collectFrame_of_req_zero hr, hb]),
      chunkLoop_nothing (by omega) (by rw [collectFrame_of_req_zero hr, hb])]
  | cons b body =>
    have hc : s.collectFrame.buf = b :: body := by rw [collectFrame_of_req_zero hr, hb]
    cases hok : lengthOk s.cfg b with
    | false => rw [chunkLoop_lengthBad (by omega) hc hok, chunkLoop_lengthBad (by omega) hc hok]
    | true =>
      rw [chunkLoop_lengthOk (by omega) hc hok, chunkLoop_lengthOk (by omega) hc hok, collectFrame_of_req_zero hr]
      refine chunkLoop_enough n ?_ (by simpa using hn) k
      have := four_le_of_lengthOk hok; simp [reqOfLength]; omega

/-- A pass that completes a frame goes on as from IDLE with the rest of the buffer. -/
theorem chunkLoop_after_frame {s : State} {p rest : List Byte} (hb : s.buf = p ++ rest) (hr : s.req = p.length)
    (hp : p ≠ []) (n : Nat) :
    chunkLoop (n + 1) s = chunkLoop (n + 1) { s.pushFrame p with buf := rest, req := 0 } := by
  have hpos : 0 < s.req := by rw [hr]; exact List.length_pos_iff.2 hp
  have hle : s.req ≤ s.buf.length := by rw [hb, hr]; simp
  have htake : s.buf.take s.req = p := by rw [hb, hr]; simp
  have hdrop : s.buf.drop s.req = rest := by rw [hb, hr]; simp
  have hc : s.collectFrame = { s.pushFrame p with buf := rest } := by
    rw [collectFrame_of_req_pos hpos, State.emitFrame, htake, hdrop]
  have hc' : State.collectFrame { s.pushFrame p with buf := rest, req := 0 }
      = { s.pushFrame p with buf := rest, req := 0 } := collectFrame_of_req_zero rfl
  cases rest with
  | nil => rw [chunkLoop_nothing hle (by rw [hc]), chunkLoop_nothing (Nat.zero_le _) (by rw [hc']), hc, hc']; rfl
  | cons b body =>
    cases hok : lengthOk s.cfg b with
    | false =>
      rw [chunkLoop_lengthBad hle (by rw [hc]) hok,
        chunkLoop_lengthBad (s := { s.pushFrame p with buf := b :: body, req := 0 }) (Nat.zero_le _) (by rw [hc']) hok,
        hc, hc']
      rfl
    | true =>
      rw [chunkLoop_lengthOk hle (by rw [hc]) hok,
        chunkLoop_lengthOk (s := { s.pushFrame p with buf := b :: body, req := 0 }) (Nat.zero_le _) (by rw [hc']) hok,
        hc, hc']
      rfl

/-! ### One more byte of a chunk -/

/-- Appending nothing changes nothing. -/
@[simp] theorem appendBuf_nil (s : State) : s.appendBuf [] = s := by simp [State.appendBuf]

/-- A chunk of no bytes changes nothing at rest (R117 case 1). -/
theorem chunk_nil {s : State} (h : s.atRest = true) : s.chunk [] = s := by
  obtain ⟨hr, hb⟩ | ⟨b, body, hb, -, -, hl⟩ := atRest_cases h
  · simp only [State.chunk, appendBuf_nil, passBound, Nat.add_comm 1]
    rw [chunkLoop_nothing (by omega) (by rw [collectFrame_of_req_zero hr, hb]), collectFrame_of_req_zero hr,
      State.desync, ← hb, ← hr]
  · simp only [State.chunk, appendBuf_nil]
    exact chunkLoop_stop (by rw [hb]; simpa using hl) _

/-- A byte that is accepted leaves the Framer at rest (R25). -/
theorem takeByte_atRest {s : State} (h : s.atRest = true) (b : Byte) : (s.takeByte b).atRest = true := by
  obtain ⟨hr, hb⟩ | ⟨d, body, hb, hok, hr, hl⟩ := atRest_cases h
  · cases hok : lengthOk s.cfg b with
    | false =>
      have : s.takeByte b = s.startSkip := by simp [State.takeByte, hr, hok]
      rw [this]; exact atRest_idle hr hb
    | true =>
      have : s.takeByte b = s.openFrame b := by simp [State.takeByte, hr, hok]
      have := four_le_of_lengthOk hok
      rw [‹s.takeByte b = _›]
      exact atRest_collect (b := b) (body := []) rfl hok rfl (by simp [reqOfLength]; omega)
  · by_cases hend : s.buf.length + 1 = s.req
    · have : s.takeByte b = (s.appendBuf [b]).closeFrame := by
        rw [State.takeByte, if_neg (by omega), if_pos hend]
      rw [this]; exact atRest_idle rfl rfl
    · have : s.takeByte b = s.appendBuf [b] := by
        rw [State.takeByte, if_neg (by omega), if_neg hend]
      rw [this]
      refine atRest_collect (b := d) (body := body ++ [b]) (by simp [hb]) hok hr ?_
      simp [hb] at hend ⊢; omega

/-- A chunk whose first byte is out of range where a length byte is expected is lost whole (R107). -/
theorem chunk_cons_bad {s : State} (hr : s.req = 0) (hb : s.buf = []) {b : Byte} (hbad : lengthOk s.cfg b = false)
    (c : List Byte) : s.chunk (b :: c) = s := by
  have hc : (s.appendBuf (b :: c)).collectFrame = s.appendBuf (b :: c) := collectFrame_of_req_zero (by simp [hr])
  simp only [State.chunk, passBound, Nat.add_comm 1]
  rw [chunkLoop_lengthBad (s := s.appendBuf (b :: c)) (b := b) (body := c) (by simp [hr])
    (by rw [hc]; simp [hb]) hbad, hc]
  simp [State.desync, State.appendBuf, ← hb, ← hr]

/-- Any other first byte of a chunk acts as one accepted byte, and the chunk goes on with the rest (R113). -/
theorem chunk_cons {s : State} (h : s.atRest = true) {b : Byte} (hok : s.req = 0 → lengthOk s.cfg b = true)
    (c : List Byte) :
    s.chunk (b :: c) = (s.takeByte b).chunk c := by
  obtain ⟨hr, hb⟩ | ⟨d, body, hb, hd, hr, hl⟩ := atRest_cases h
  · have hok := hok hr
    have ht : s.takeByte b = s.openFrame b := by simp [State.takeByte, hr, hok]
    have hc : (s.appendBuf (b :: c)).collectFrame = s.appendBuf (b :: c) := collectFrame_of_req_zero (by simp [hr])
    have hlen := four_le_of_lengthOk hok
    have key : (s.appendBuf (b :: c)).startFrame b = (s.openFrame b).appendBuf c := by
      simp [State.startFrame, State.appendBuf, State.openFrame, hb]
    simp only [State.chunk, passBound, ht]
    rw [Nat.add_comm 1, chunkLoop_lengthOk (s := s.appendBuf (b :: c)) (b := b) (body := c) (by simp [hr])
      (by rw [hc]; simp [hb]) hok, hc, key, hb]
    simp only [List.nil_append, State.openFrame_buf, List.singleton_append]
    rw [Nat.add_comm 1]
    exact (chunkLoop_enough _ (by simp [reqOfLength]; omega) (by simp) 1).symm
  · by_cases hend : s.buf.length + 1 = s.req
    · have ht : s.takeByte b = (s.appendBuf [b]).closeFrame := by
        rw [State.takeByte, if_neg (by omega), if_pos hend]
      have key : { (s.appendBuf (b :: c)).pushFrame (s.buf ++ [b]) with buf := c, req := 0 }
          = ((s.appendBuf [b]).closeFrame).appendBuf c := by
        simp [State.appendBuf, State.closeFrame, State.pushFrame, State.desync]
      simp only [State.chunk, passBound, ht]
      rw [Nat.add_comm 1, chunkLoop_after_frame (p := s.buf ++ [b]) (rest := c) (by simp) (by simp; omega) (by simp),
        key]
      simp only [State.closeFrame_buf, List.nil_append]
      rw [Nat.add_comm 1]
      obtain ⟨k, hk⟩ : ∃ k, (s.buf ++ b :: c).length / 5 = c.length / 5 + k :=
        ⟨(s.buf ++ b :: c).length / 5 - c.length / 5, by simp; omega⟩
      rw [hk, show c.length / 5 + k + 1 = c.length / 5 + 1 + k by omega]
      exact chunkLoop_enough_idle (by simp) (by simp) k
    · have ht : s.takeByte b = s.appendBuf [b] := by rw [State.takeByte, if_neg (by omega), if_neg hend]
      have key : (s.appendBuf [b]).appendBuf c = s.appendBuf (b :: c) := by simp [State.appendBuf]
      rw [ht]
      simp only [State.chunk, key, State.appendBuf_buf, List.append_assoc, List.singleton_append]

/-! ### Well-formed frames -/

/-- A byte accepted at rest completes at most one frame, and a well-formed one (R118). -/
theorem takeByte_frames {s : State} (h : s.atRest = true) (b : Byte) :
    ∃ frames, (s.takeByte b).frmQ = s.frmQ ++ frames ∧ ∀ p ∈ frames, frameOk s.cfg p = true := by
  obtain ⟨hr, hb⟩ | ⟨d, body, hb, hok, hr, hl⟩ := atRest_cases h
  · refine ⟨[], ?_, by simp⟩
    simp only [State.takeByte, hr, if_true]
    split <;> simp
  · by_cases hend : s.buf.length + 1 = s.req
    · rw [State.takeByte, if_neg (by omega), if_pos hend]
      refine ⟨[s.buf ++ [b]], by simp, ?_⟩
      simp [hb, frameOk, hok] at *; omega
    · rw [State.takeByte, if_neg (by omega), if_neg hend]
      exact ⟨[], by simp⟩

/-! ### What the Framer writes -/

/-- Frames leave the Framer: they are appended to the queue and, in order, to the history, and `buf` and `req` are
as given. Everything the Framer does to the rest of the state is this. -/
def State.framed (frames : List Frame) (buf : List Byte) (req : Nat) (s : State) : State :=
  { s with buf := buf, req := req, frmQ := s.frmQ ++ frames, history := s.history ++ frames.map .frame }

theorem framed_framed (s : State) (f g : List Frame) (b c : List Byte) (m n : Nat) :
    (s.framed f b m).framed g c n = s.framed (f ++ g) c n := by
  simp [State.framed]

/-- The loop of `CHUNK` depends on the parameters, `buf` and `req` alone, and writes only what `State.framed` writes. -/
theorem chunkLoop_framed (n : Nat) : ∃ out : Config → List Byte → Nat → List Frame × List Byte × Nat, ∀ s : State,
    chunkLoop n s = s.framed (out s.cfg s.buf s.req).1 (out s.cfg s.buf s.req).2.1 (out s.cfg s.buf s.req).2.2 := by
  induction n with
  | zero => exact ⟨fun _ b r => ([], b, r), fun s => by simp [chunkLoop, State.framed]⟩
  | succ n ih =>
    obtain ⟨out, ih⟩ := ih
    let held (b : List Byte) (r : Nat) : List Frame × List Byte := if 0 < r then ([b.take r], b.drop r) else ([], b)
    refine ⟨fun cfg b r =>
      if b.length < r then ([], b, r)
      else
        match (held b r).2 with
        | d :: _ =>
          if lengthOk cfg d then
            ((held b r).1 ++ (out cfg (held b r).2 (reqOfLength d)).1, (out cfg (held b r).2 (reqOfLength d)).2)
          else ((held b r).1, [], 0)
        | [] => ((held b r).1, [], 0), fun s => ?_⟩
    have hc : s.collectFrame = s.framed (held s.buf s.req).1 (held s.buf s.req).2 s.req := by
      by_cases h : 0 < s.req
      · simp [held, collectFrame_of_req_pos h, h, State.framed, State.emitFrame, State.pushFrame]
      · simp [held, collectFrame_of_req_zero (Nat.le_zero.1 (Nat.not_lt.1 h)), h, State.framed]
    have hb : s.collectFrame.buf = (held s.buf s.req).2 := by rw [hc]; rfl
    by_cases hl : s.buf.length < s.req
    · simp [chunkLoop_stop hl, hl, State.framed]
    · have hle := Nat.not_lt.1 hl
      simp only [hl, if_false]
      cases hd : (held s.buf s.req).2 with
      | nil => rw [chunkLoop_nothing hle (hb.trans hd), hc]; rfl
      | cons d body =>
        cases hok : lengthOk s.cfg d with
        | false => rw [chunkLoop_lengthBad hle (hb.trans hd) hok, hc]; simp [hok, State.desync, State.framed]
        | true =>
          rw [chunkLoop_lengthOk hle (hb.trans hd) hok, ih, hc]
          simp [hok, State.startFrame, State.framed, hd]

/-- The same of an open `CHUNK`. -/
theorem chunk_framed (c : List Byte) : ∃ out : Config → List Byte → Nat → List Frame × List Byte × Nat, ∀ s : State,
    s.chunk c = s.framed (out s.cfg s.buf s.req).1 (out s.cfg s.buf s.req).2.1 (out s.cfg s.buf s.req).2.2 := by
  have h := fun n => chunkLoop_framed n
  choose out h using h
  exact ⟨fun cfg b r => out (passBound (b ++ c).length) cfg (b ++ c) r, fun s => by
    rw [State.chunk, h]; simp [State.framed, State.appendBuf]⟩

@[simp] theorem chunkLoop_cfg (n : Nat) (s : State) : (chunkLoop n s).cfg = s.cfg := by
  obtain ⟨out, h⟩ := chunkLoop_framed n
  rw [h]; rfl

@[simp] theorem chunk_cfg (c : List Byte) (s : State) : (s.chunk c).cfg = s.cfg := chunkLoop_cfg _ _

/-- What `BYTE` does, in the parts of the state it reads: the gate, the Framer's and the refinement's bits. -/
theorem execByte_framed (b : Byte) (last : Bool) :
    ∃ out : Config → Bool → Bool → Bool → Bool → List Byte → Nat → List Frame × List Byte × Nat × Bool × Bool,
    ∀ s : State,
      execByte b last s =
        let o := out s.cfg s.rxEn s.first s.live s.skip s.buf s.req
        .next { s.framed o.1 o.2.1 o.2.2.1 with live := o.2.2.2.1, skip := o.2.2.2.2, first := last } := by
  refine ⟨fun cfg gate first live skip buf req =>
    let live := if first then gate else live
    let skip := if first then false else skip
    if live && !skip then
      if req = 0 then
        if lengthOk cfg b then ([], [b], reqOfLength b, live, false) else ([], buf, req, live, !last)
      else if buf.length + 1 = req then ([buf ++ [b]], [], 0, live, false)
      else ([], buf ++ [b], req, live, false)
    else ([], buf, req, live, skip && !last), fun s => ?_⟩
  obtain ⟨cfg, rxEn, buf, req, skip, live, first, seqCtr, ack, frmQ, history, inputs⟩ := s
  simp only [execByte, State.latchGate]
  cases first <;> cases live <;> cases skip <;> cases rxEn <;> simp only [if_true, if_false, Bool.false_eq_true,
    Bool.not_true, Bool.not_false, Bool.and_true, Bool.and_false, Bool.true_and, Bool.false_and, State.takeByte] <;>
    (try split) <;> (try split) <;>
    simp [State.framed, State.endTransfer, State.openFrame, State.startSkip, State.closeFrame, State.pushFrame,
      State.desync, State.appendBuf]

end Sys2Proof.Machine
end

