-- ==== Sys2Proof/Laws/PerInstr.lean ====
section
/-! SUPPORT. The families of statements made per operation, one lemma per constructor of `Instr`. -/

namespace Sys2Proof.Laws

/-- A well-formed operation is read back from its encoding (R83 to R85, R93). -/
def RoundTrip.Statement (i : Instr) : Prop :=
  ∀ cfg : Config, i.wf cfg = true → decode cfg (encode cfg i) = .ok i

/-- A byte of a row of the length-byte table decodes to that row. -/
theorem decode_lb_of_decodeLength {cfg : Config} {b : Byte} {i : Instr} (h : decodeLength b = some i) :
    decode cfg (.lb b) = .ok i := by
  simp [decode, h]

/-- A command word with a tag of `TAG_W` bits decodes to its row. -/
theorem decode_op {cfg : Config} {w : CommandWord} (h : w.tag.fits cfg = true) :
    decode cfg (.op w) = .ok (decodeCommand w) := by
  simp [decode, h]

/-- The tag 0, which the encoder writes where a row has no tag operand, has every width. -/
theorem zero_fits (cfg : Config) : Tag.fits cfg ⟨0⟩ = true := by
  simp [Tag.fits]

theorem RoundTrip.chunk (c : List Byte) : RoundTrip.Statement (.chunk c) := fun _ _ => by simp [decode, encode]

theorem RoundTrip.byte (b : Byte) (last : Bool) : RoundTrip.Statement (.byte b last) := fun _ _ => by
  simp [decode, encode]

theorem RoundTrip.lenOk04 (len : Byte) : RoundTrip.Statement (.lenOk04 len) := fun _ h =>
  decode_lb_of_decodeLength <| by revert h; simp only [Instr.wf]; revert len; decide

theorem RoundTrip.lenOk08 (len : Byte) : RoundTrip.Statement (.lenOk08 len) := fun _ h =>
  decode_lb_of_decodeLength <| by revert h; simp only [Instr.wf]; revert len; decide

theorem RoundTrip.lenOk10 (len : Byte) : RoundTrip.Statement (.lenOk10 len) := fun _ h =>
  decode_lb_of_decodeLength <| by revert h; simp only [Instr.wf]; revert len; decide

theorem RoundTrip.lenOk20 (len : Byte) : RoundTrip.Statement (.lenOk20 len) := fun _ h =>
  decode_lb_of_decodeLength <| by revert h; simp only [Instr.wf]; revert len; decide

theorem RoundTrip.lenOk24 (len : Byte) : RoundTrip.Statement (.lenOk24 len) := fun _ h =>
  decode_lb_of_decodeLength <| by revert h; simp only [Instr.wf]; revert len; decide

theorem RoundTrip.lenBad00 (len : Byte) : RoundTrip.Statement (.lenBad00 len) := fun _ h =>
  decode_lb_of_decodeLength <| by revert h; simp only [Instr.wf]; revert len; decide

theorem RoundTrip.lenBad25 (len : Byte) : RoundTrip.Statement (.lenBad25 len) := fun _ h =>
  decode_lb_of_decodeLength <| by revert h; simp only [Instr.wf]; revert len; decide

theorem RoundTrip.lenBad26 (len : Byte) : RoundTrip.Statement (.lenBad26 len) := fun _ h =>
  decode_lb_of_decodeLength <| by revert h; simp only [Instr.wf]; revert len; decide

theorem RoundTrip.lenBad28 (len : Byte) : RoundTrip.Statement (.lenBad28 len) := fun _ h =>
  decode_lb_of_decodeLength <| by revert h; simp only [Instr.wf]; revert len; decide

theorem RoundTrip.lenBad30 (len : Byte) : RoundTrip.Statement (.lenBad30 len) := fun _ h =>
  decode_lb_of_decodeLength <| by revert h; simp only [Instr.wf]; revert len; decide

theorem RoundTrip.lenBad40 (len : Byte) : RoundTrip.Statement (.lenBad40 len) := fun _ h =>
  decode_lb_of_decodeLength <| by revert h; simp only [Instr.wf]; revert len; decide

theorem RoundTrip.lenBad80 (len : Byte) : RoundTrip.Statement (.lenBad80 len) := fun _ h =>
  decode_lb_of_decodeLength <| by revert h; simp only [Instr.wf]; revert len; decide

theorem RoundTrip.lenNone : RoundTrip.Statement .lenNone := fun _ _ => rfl

theorem RoundTrip.seqNext : RoundTrip.Statement .seqNext := fun cfg _ => decode_op (zero_fits cfg)

theorem RoundTrip.ackReg (seq : SeqNum) (tag : Tag) : RoundTrip.Statement (.ackReg seq tag) := fun _ h => decode_op h

theorem RoundTrip.ackRes (seq : SeqNum) : RoundTrip.Statement (.ackRes seq) := fun cfg _ => decode_op (zero_fits cfg)

theorem RoundTrip.ackRel (seq : SeqNum) : RoundTrip.Statement (.ackRel seq) := fun cfg _ => decode_op (zero_fits cfg)

theorem RoundTrip.rxEn : RoundTrip.Statement .rxEn := fun cfg _ => decode_op (zero_fits cfg)

theorem RoundTrip.rxDis : RoundTrip.Statement .rxDis := fun cfg _ => decode_op (zero_fits cfg)

theorem RoundTrip.oprsv6 : RoundTrip.Statement .oprsv6 := fun cfg _ => decode_op (zero_fits cfg)

theorem RoundTrip.oprsv7 : RoundTrip.Statement .oprsv7 := fun cfg _ => decode_op (zero_fits cfg)

theorem RoundTrip.route : RoundTrip.Statement .route := fun _ _ => rfl

theorem RoundTrip.ackFrm (len subtype seq code : Byte) (more : List Byte) :
    RoundTrip.Statement (.ackFrm len subtype seq code more) := fun _ h => by
  have hlen : more.length + 4 = len.toNat := by simpa [Instr.wf] using h
  simp [decode, encode, decodeFrame, ← hlen]

theorem RoundTrip.fwdFrm (p : Frame) : RoundTrip.Statement (.fwdFrm p) := fun cfg h => by
  match p, h with
  | len :: type :: payload, h =>
    have hp : payload.length + 1 = len.toNat ∧ type ≠ cfg.ackType := by simpa [Instr.wf] using h
    simp [decode, encode, decodeFrame, ← hp.1, hp.2]

theorem RoundTrip.reset : RoundTrip.Statement .reset := fun _ _ => rfl

end Sys2Proof.Laws
end

