-- ==== Sys2Proof/Laws/Router.lean ====
section
/-! SUPPORT. The router: what it does with the frame it has taken, one lemma for each case, and all of them at once. -/

namespace Sys2Proof.Machine

variable (s : State)

/-- The size check in numbers (R162). -/
theorem sizeOk_cons (len : Byte) (body : List Byte) : sizeOk (len :: body) = true ↔ body.length = len.toNat := by
  simp [sizeOk]

/-- A well-formed frame has the size its length byte says (R37). -/
theorem sizeOk_of_frameOk {cfg : Config} {p : Frame} (h : frameOk cfg p = true) : sizeOk p = true := by
  obtain ⟨len, body, rfl, -, hl⟩ := (frameOk_iff cfg p).1 h
  exact (sizeOk_cons len body).2 hl

/-- A frame of the wrong size is logged (R162). -/
theorem routeFrame_mismatch {p : Frame} (h : sizeOk p = false) :
    routeFrame p s = .next (s.emit .logLengthMismatch) := by
  simp [routeFrame, h]

/-- A frame of type `ACK_TYPE` takes the acknowledgement path (R164). -/
theorem routeFrame_ack {len type subtype seq code : Byte} {more : List Byte}
    (h : sizeOk (len :: type :: subtype :: seq :: code :: more) = true) (ht : type = s.cfg.ackType) :
    routeFrame (len :: type :: subtype :: seq :: code :: more) s = .next (s.acknowledge seq code) := by
  subst ht
  simp [routeFrame, h]

/-- A frame of any other type is forwarded (R166). -/
theorem routeFrame_forward {len type : Byte} {payload : List Byte} (h : sizeOk (len :: type :: payload) = true)
    (ht : type ≠ s.cfg.ackType) :
    routeFrame (len :: type :: payload) s = .next (s.emit (.fwd (len :: type :: payload))) := by
  simp [routeFrame, h, ht]

/-- Everything the router can do with a frame: log it, acknowledge, forward, or stop at a frame too short for its
type, which no well-formed frame is. -/
theorem routeFrame_cases (p : Frame) :
    (sizeOk p = false ∧ routeFrame p s = .next (s.emit .logLengthMismatch)) ∨
    (∃ len subtype seq code more, p = len :: s.cfg.ackType :: subtype :: seq :: code :: more ∧
      routeFrame p s = .next (s.acknowledge seq code)) ∨
    (p[1]? ≠ some s.cfg.ackType ∧ routeFrame p s = .next (s.emit (.fwd p))) ∨
    (frameOk s.cfg p = false ∧ routeFrame p s = .fault .frameTooShort) := by
  cases hs : sizeOk p with
  | false => exact .inl ⟨rfl, routeFrame_mismatch s hs⟩
  | true =>
    have short : ∀ {len : Byte} {body : List Byte}, p = len :: body → body.length < 4 → frameOk s.cfg p = false := by
      rintro len body rfl hl
      cases hf : frameOk s.cfg (len :: body) with
      | false => rfl
      | true =>
        obtain ⟨_, _, e, hlen, hb⟩ := (frameOk_iff _ _).1 hf
        cases e
        have := four_le_of_lengthOk hlen
        omega
    match p, hs with
    | [len], hs => exact .inr (.inr (.inr ⟨short rfl (by simp), by simp [routeFrame, hs]⟩))
    | len :: type :: payload, hs =>
      by_cases ht : type = s.cfg.ackType
      · subst ht
        match payload, hs with
        | [], hs => exact .inr (.inr (.inr ⟨short rfl (by simp), by simp [routeFrame, hs]⟩))
        | [_], hs => exact .inr (.inr (.inr ⟨short rfl (by simp), by simp [routeFrame, hs]⟩))
        | [_, _], hs => exact .inr (.inr (.inr ⟨short rfl (by simp), by simp [routeFrame, hs]⟩))
        | subtype :: seq :: code :: more, hs =>
          exact .inr (.inl ⟨len, subtype, seq, code, more, rfl, routeFrame_ack s hs rfl⟩)
      · exact .inr (.inr (.inl ⟨by simp [ht], routeFrame_forward s hs ht⟩))

/-- `ROUTE` with a frame waiting. -/
theorem execRoute_cons {p : Frame} {rest : List Frame} (h : s.frmQ = p :: rest) :
    execRoute s = routeFrame p (s.setQueue rest) := by
  simp [execRoute, h]

end Sys2Proof.Machine
end

