-- ==== Sys2Proof/Laws/Table.lean ====
section
/-! SUPPORT. The acknowledgement table as a whole: how a write of one slot changes the number of slots that hold a
tag, and how renaming tags passes through the shared operations. -/

namespace Sys2Proof.Machine

/-- Writing one place of a list, counted. -/
theorem count_list_set {α : Type} [BEq α] [LawfulBEq α] [DecidableEq α] (l : List α) (i : Nat) (h : i < l.length)
    (x y : α) : (l.set i x).count y + (if l[i] = y then 1 else 0) = l.count y + (if x = y then 1 else 0) := by
  induction l generalizing i with
  | nil => simp at h
  | cons a l ih =>
    cases i with
    | zero => simp [List.count_cons]; omega
    | succ i => have := ih i (by simpa using h); simp [List.count_cons]; omega

/-- A write of slot `q` changes the holdings of a tag by what the slot held and what it holds now. -/
theorem holdings_setSlot (s : State) (q : SeqNum) (v : Option Tag) (t : Tag) :
    (s.setSlot q v).holdings t + (if s.slot q = some t then 1 else 0)
      = s.holdings t + (if v = some t then 1 else 0) := by
  have h := count_list_set s.ack.slots q.toNat (Nat.lt_of_lt_of_le q.isLt s.ack.indexed) v (some t)
  simp only [State.holdings, State.setSlot_slots, State.slot]
  convert h using 2
  congr

/-- What a table in order is: `SLOTS` slots, and tags of `TAG_W` bits in them. -/
theorem tableOk_iff (s : State) : s.tableOk = true ↔
    s.ack.slots.length = s.cfg.slots ∧ ∀ tag, some tag ∈ s.ack.slots → tag.fits s.cfg = true := by
  simp only [State.tableOk, Bool.and_eq_true, beq_iff_eq, List.all_eq_true]
  refine and_congr_right fun _ => ⟨fun h tag ht => by simpa using h _ ht, fun h slot hs => ?_⟩
  cases slot with
  | none => rfl
  | some tag => exact h tag hs

/-- The order of the table depends on the parameters and the table only. -/
theorem tableOk_congr {s t : State} (hc : s.cfg = t.cfg) (ha : s.ack = t.ack) : s.tableOk = t.tableOk := by
  simp [State.tableOk, hc, ha]

/-- A write of a slot keeps the table in order if what it writes is. -/
theorem tableOk_setSlot {s : State} (h : s.tableOk = true) (q : SeqNum) {v : Option Tag}
    (hv : ∀ tag, v = some tag → tag.fits s.cfg = true) : (s.setSlot q v).tableOk = true := by
  rw [tableOk_iff] at h ⊢
  refine ⟨by simpa using h.1, fun tag ht => ?_⟩
  obtain hm | he := List.mem_or_eq_of_mem_set (by simpa using ht)
  · exact h.2 tag hm
  · exact hv tag he.symm

/-- `resolve` keeps the table in order. -/
theorem tableOk_resolve {s : State} (h : s.tableOk = true) (q : SeqNum) : (s.resolve q).tableOk = true := by
  obtain ⟨-, e⟩ | ⟨t, -, e⟩ := resolve_cases s q
  · rwa [e]
  · rw [e]
    exact tableOk_setSlot (s := s.emit (.done t)) h q (by simp)

/-- The table after reset is in order. -/
theorem tableOk_resetOf (cfg : Config) : (State.resetOf cfg).tableOk = true := by
  rw [tableOk_iff]
  simp [State.resetOf, Table.empty]

/-- An event counts as a delivery of the tag it carries. -/
theorem deliveries_emit (s : State) (e : Event) (t : Tag) :
    (s.emit e).deliveries t = s.deliveries t + (if e = .done t then 1 else 0) := by
  simp [State.deliveries, List.count_append, List.count_singleton]

/-- The Framer delivers no tag. -/
theorem deliveries_framed (s : State) (frames : List Frame) (buf : List Byte) (req : Nat) (t : Tag) :
    (s.framed frames buf req).deliveries t = s.deliveries t := by
  simp [State.framed, State.deliveries, List.count_append, List.count_eq_zero]

variable (f : Tag → Tag) (s : State)

theorem renameTags_slot (q : SeqNum) : (s.renameTags f).slot q = (s.slot q).map f := by
  simp [State.renameTags, State.slot]

theorem renameTags_setSlot (q : SeqNum) (v : Option Tag) :
    (s.setSlot q v).renameTags f = (s.renameTags f).setSlot q (v.map f) := by
  simp [State.renameTags, State.setSlot, List.map_set]

theorem renameTags_emit (e : Event) : (s.emit e).renameTags f = (s.renameTags f).emit (e.renameTag f) := by
  simp [State.renameTags, State.emit]

theorem renameTags_framed (frames : List Frame) (buf : List Byte) (req : Nat) :
    (s.framed frames buf req).renameTags f = (s.renameTags f).framed frames buf req := by
  simp [State.renameTags, State.framed, Event.renameTag]

/-- `resolve` looks at whether the slot is filled and never into its tag. -/
theorem renameTags_resolve (q : SeqNum) : (s.renameTags f).resolve q = (s.resolve q).renameTags f := by
  cases h : s.slot q with
  | none => rw [resolve_empty s q h, resolve_empty _ _ (by rw [renameTags_slot, h]; rfl)]
  | some t =>
    rw [resolve_filled s q h, resolve_filled _ _ (t := f t) (by rw [renameTags_slot, h]; rfl), renameTags_setSlot,
      renameTags_emit]
    rfl

end Sys2Proof.Machine
end

