-- ==== Sys2Proof/Tests/Slice0.lean ====
section
/-! SUPPORT. Tests of one step each with results from spec/95_test_vectors.md or by hand from the cited rules, words
written out from the encodings of spec/30_encoding.md, and witnesses for the hypotheses of the statements. -/

namespace Sys2Proof.Tests

open Sys2Proof.Machine

/-- The parameters of the vectors. -/
abbrev std : Config := Config.atReset

/-- A field of the state a step answers. -/
def got {α : Type} (f : State → α) : Host.Outcome State Fault Refusal → Option α
  | .next s => some (f s)
  | .fault _ => none
  | .refused _ => none

/-- The start state of the vectors: reset, then `RXEN`. -/
def enabled : State := { State.reset with rxEn := true }

/-- `enabled` with the Framer at `buf` and `req`. -/
def framing (buf : List Byte) (req : Nat) : State := { enabled with buf := buf, req := req }

/-- `enabled` in COLLECT, with `buf` = [04 02] (K2). -/
def collecting : State := framing [0x04, 0x02] 5

/-- `enabled` inside a chunk of the byte-serial refinement, in SKIP. -/
def skipping : State := { enabled with first := false, live := true, skip := true }

/-- `enabled` with slot `q` registered. -/
def holding (q : SeqNum) (t : Nat) : State := enabled.setSlot q (some ⟨t⟩)

/-- `holding q t` with frames queued. -/
def queued (q : SeqNum) (t : Nat) (frames : List Frame) : State := { holding q t with frmQ := frames }

/-- `s` with one request to come. -/
def requesting (s : State) (r : Request) : State := { s with inputs := [r] }

/-- The acknowledgement for 5 of S2. -/
def ack5 : Frame := [0x04, 0x02, 0x00, 0x05, 0x00]

/-- The temperature packet of S1. -/
def temp : Frame := [0x08, 0x50, 0x01, 0x00, 0x12, 0x34, 0x80, 0x05, 0x29]

/-! ## Ill-formed terms are refused -/

theorem test_wf_lenOk_refused :
    Instr.wf std (.lenOk04 0x08) = false ∧ Instr.wf std (.lenOk04 0x03) = false ∧ Instr.wf std (.lenOk08 0x10) = false ∧
    Instr.wf std (.lenOk10 0x20) = false ∧ Instr.wf std (.lenOk20 0x24) = false ∧ Instr.wf std (.lenOk24 0x25) = false := by
  decide

theorem test_wf_lenBad_refused :
    Instr.wf std (.lenBad00 0x04) = false ∧ Instr.wf std (.lenBad25 0x24) = false ∧ Instr.wf std (.lenBad26 0x25) = false ∧
    Instr.wf std (.lenBad28 0x30) = false ∧ Instr.wf std (.lenBad30 0x40) = false ∧ Instr.wf std (.lenBad40 0x80) = false ∧
    Instr.wf std (.lenBad80 0x7F) = false := by
  decide

theorem test_wf_ackFrm_size_refused : Instr.wf std (.ackFrm 5 0 5 0 []) = false := by decide

theorem test_wf_fwdFrm_size_refused : Instr.wf std (.fwdFrm [0x08, 0x50, 0x01]) = false := by decide

theorem test_wf_fwdFrm_type_refused : Instr.wf std (.fwdFrm ack5) = false := by decide

theorem test_wf_fwdFrm_short_refused : Instr.wf std (.fwdFrm [0x00]) = false ∧ Instr.wf std (.fwdFrm []) = false := by
  decide

/-- A tag of nine bits where `TAG_W` is 8. -/
theorem test_wf_tag_refused : Instr.wf std (.ackReg 0 ⟨256⟩) = false := by decide

theorem test_wf_accepted :
    Instr.wf std (.lenOk24 0x24) = true ∧ Instr.wf std (.ackFrm 4 0 5 0 []) = true ∧ Instr.wf std (.fwdFrm temp) = true := by
  decide

/-! ## Words written out from the spec's encodings -/

/-- R83, R93: `rx_last` above `rx_data`; V2's second chunk. -/
theorem test_decode_chunk :
    decode std (.rxc [0b000000010, 0b000000000, 0b000000101, 0b100000000]) = .ok (.chunk [0x02, 0x00, 0x05, 0x00]) := by
  decide

theorem test_decode_chunk_without_end : decode std (.rxc [0b000000010, 0b000000000]) = .error .notAChunk := by decide

theorem test_decode_chunk_ends_twice : decode std (.rxc [0b100000010, 0b100000000]) = .error .notAChunk := by decide

theorem test_decode_byte :
    decode std (.rxb 0b100100100) = .ok (.byte 0x24 true) ∧ decode std (.rxb 0b011111111) = .ok (.byte 0xFF false) := by
  decide

/-- R77: `0b000001xx`, `0b00001xxx`, `0b0001xxxx`, `0b001000xx` and `0b00100100`, at both ends. -/
theorem test_decode_lenOk :
    decode std (.lb 0b00000100) = .ok (.lenOk04 4) ∧ decode std (.lb 0b00000111) = .ok (.lenOk04 7) ∧
    decode std (.lb 0b00001000) = .ok (.lenOk08 8) ∧ decode std (.lb 0b00001111) = .ok (.lenOk08 15) ∧
    decode std (.lb 0b00010000) = .ok (.lenOk10 16) ∧ decode std (.lb 0b00011111) = .ok (.lenOk10 31) ∧
    decode std (.lb 0b00100000) = .ok (.lenOk20 32) ∧ decode std (.lb 0b00100011) = .ok (.lenOk20 35) ∧
    decode std (.lb 0b00100100) = .ok (.lenOk24 36) := by
  decide

/-- R77: `0b000000xx`, `0b00100101`, `0b0010011x`, `0b00101xxx`, `0b0011xxxx`, `0b01xxxxxx` and `0b1xxxxxxx`. -/
theorem test_decode_lenBad :
    decode std (.lb 0b00000000) = .ok (.lenBad00 0) ∧ decode std (.lb 0b00000011) = .ok (.lenBad00 3) ∧
    decode std (.lb 0b00100101) = .ok (.lenBad25 37) ∧ decode std (.lb 0b00100110) = .ok (.lenBad26 38) ∧
    decode std (.lb 0b00100111) = .ok (.lenBad26 39) ∧ decode std (.lb 0b00101000) = .ok (.lenBad28 40) ∧
    decode std (.lb 0b00101111) = .ok (.lenBad28 47) ∧ decode std (.lb 0b00110000) = .ok (.lenBad30 48) ∧
    decode std (.lb 0b00111111) = .ok (.lenBad30 63) ∧ decode std (.lb 0b01000000) = .ok (.lenBad40 64) ∧
    decode std (.lb 0b01111111) = .ok (.lenBad40 127) ∧ decode std (.lb 0b10000000) = .ok (.lenBad80 128) ∧
    decode std (.lb 0b11111111) = .ok (.lenBad80 255) := by
  decide

theorem test_decode_lenNone : decode std .lbe = .ok .lenNone := by decide

/-- R85, E3. -/
theorem test_decode_command :
    decode std (.op ⟨0b000, 0b00000101, ⟨9⟩⟩) = .ok .seqNext ∧
    decode std (.op ⟨0b001, 0b00000101, ⟨9⟩⟩) = .ok (.ackReg 5 ⟨9⟩) ∧
    decode std (.op ⟨0b010, 0b00000101, ⟨9⟩⟩) = .ok (.ackRes 5) ∧
    decode std (.op ⟨0b011, 0b00000101, ⟨9⟩⟩) = .ok (.ackRel 5) ∧
    decode std (.op ⟨0b100, 0b00000101, ⟨9⟩⟩) = .ok .rxEn ∧ decode std (.op ⟨0b101, 0b00000101, ⟨9⟩⟩) = .ok .rxDis ∧
    decode std (.op ⟨0b110, 0b00000101, ⟨9⟩⟩) = .ok .oprsv6 ∧
    decode std (.op ⟨0b111, 0b00000101, ⟨9⟩⟩) = .ok .oprsv7 := by
  decide

theorem test_decode_tag_too_wide :
    decode std (.op ⟨1, 5, ⟨256⟩⟩) = .error .tagTooWide ∧
    decode { std with tagWidth := 9 } (.op ⟨1, 5, ⟨256⟩⟩) = .ok (.ackReg 5 ⟨256⟩) := by
  decide

theorem test_decode_route : decode std .int = .ok .route := by decide

/-- R73, R78: S2, and case 6 of R170 with its further byte. -/
theorem test_decode_ackFrm :
    decode std (.ft ack5) = .ok (.ackFrm 4 0 5 0 []) ∧
    decode std (.ft [0x05, 0x02, 0x00, 0x05, 0x00, 0xAA]) = .ok (.ackFrm 5 0 5 0 [0xAA]) := by
  decide

theorem test_decode_fwdFrm :
    decode std (.ft temp) = .ok (.fwdFrm temp) ∧ decode { std with ackType := 3 } (.ft ack5) = .ok (.fwdFrm ack5) := by
  decide

/-- R162: the size check comes first (2.5, "Length check"). -/
theorem test_decode_frame_mismatch : decode std (.ft [0x04, 0x02, 0x00, 0x05]) = .error .frameSizeMismatch := by
  decide

theorem test_decode_reset : decode std (.rst 0b1) = .ok .reset ∧ decode std (.rst 0b0) = .error .resetNotAsserted := by
  decide

/-- Bare table words (log entry 8). -/
theorem test_decode_table_word :
    decodeTableWord 0 0 = some (.chunk []) ∧ decodeTableWord 8 0b101 = some .rxDis ∧
    decodeTableWord 8 0x24 = some (.lenOk24 0x24) ∧ decodeTableWord 16 0b100000100 = some (.byte 0x04 true) ∧
    decodeTableWord 16 0x200 = none := by
  decide

/-- E1: the outbound command `07 10 00 07 01 AA BB CC`. -/
theorem test_command_bytes :
    Command.bytes ⟨0x10, 0x00, 7, 0x01, [0xAA, 0xBB, 0xCC]⟩ = [0x07, 0x10, 0x00, 0x07, 0x01, 0xAA, 0xBB, 0xCC] := by
  decide

/-- E2: the acknowledgement for 7. -/
theorem test_ack_bytes : ackBytes 0x02 7 0 = [0x04, 0x02, 0x00, 0x07, 0x00] := by decide

/-! ## One step of each operation -/

/-- V4. -/
theorem test_chunk_two_frames :
    got (fun t => (t.frmQ, t.buf, t.req)) (exec (.chunk (ack5 ++ temp)) enabled) = some ([ack5, temp], [], 0) := by
  decide

/-- V14's second chunk, from `buf` = [04 02 00 05]. -/
theorem test_chunk_desync :
    got (fun t => (t.frmQ, t.buf, t.req))
      (exec (.chunk [0x04, 0x02, 0x00, 0x06, 0x00]) (framing [0x04, 0x02, 0x00, 0x05] 5))
      = some ([[0x04, 0x02, 0x00, 0x05, 0x04]], [], 0) := by
  decide

/-- V1b, the fifth transfer. -/
theorem test_byte_completes :
    got (fun t => (t.history, t.buf, t.req))
      (exec (.byte 0x00 true) { enabled with buf := [0x04, 0x02, 0x00, 0x05], req := 5, live := true, first := false })
      = some ([.frame ack5], [], 0) := by
  decide

/-- V6b, the sixth transfer, 0x03. -/
theorem test_byte_skips :
    got (fun t => (t.skip, t.buf, t.req)) (exec (.byte 0x03 false) { enabled with live := true, first := false })
      = some (true, [], 0) := by
  decide

/-- 2.2: 0x04, 0x0F, 0x1F, 0x23 and 0x24 give `req` 5, 16, 32, 36 and 37. -/
theorem test_lenOk :
    got State.req (exec (.lenOk04 0x04) (framing [0x04] 0)) = some 5 ∧
    got State.req (exec (.lenOk08 0x0F) (framing [0x0F] 0)) = some 16 ∧
    got State.req (exec (.lenOk10 0x1F) (framing [0x1F] 0)) = some 32 ∧
    got State.req (exec (.lenOk20 0x23) (framing [0x23] 0)) = some 36 ∧
    got State.req (exec (.lenOk24 0x24) (framing [0x24] 0)) = some 37 := by
  decide

/-- R107: the bytes behind the bad one go with it. -/
theorem test_lenBad :
    got State.buf (exec (.lenBad00 0x03) (framing [0x03, 0x04] 5)) = some [] ∧
    got State.req (exec (.lenBad25 0x25) (framing [0x25] 5)) = some 0 ∧
    got State.buf (exec (.lenBad26 0x27) (framing [0x27, 0x04] 0)) = some [] ∧
    got State.buf (exec (.lenBad28 0x28) (framing [0x28, 0x04] 0)) = some [] ∧
    got State.buf (exec (.lenBad30 0x3F) (framing [0x3F, 0x04] 0)) = some [] ∧
    got State.buf (exec (.lenBad40 0x40) (framing [0x40, 0x04] 0)) = some [] ∧
    got State.buf (exec (.lenBad80 0xFF) (framing [0xFF, 0x04] 0)) = some [] := by
  decide

/-- R108: after a frame that ends the chunk, `req` goes back to 0. -/
theorem test_lenNone : got State.req (exec .lenNone { enabled with req := 5 }) = some 0 := by decide

/-- A2. -/
theorem test_seqNext_wraps :
    got (fun t => (t.history, t.seqCtr)) (exec .seqNext { enabled with seqCtr := 255 }) = some ([.seq 255], 0) := by
  decide

/-- T2: the overwrite is silent. -/
theorem test_ackReg_overwrites :
    got (fun t => (t.slot 5, t.history)) (exec (.ackReg 5 ⟨2⟩) (holding 5 1)) = some (some ⟨2⟩, []) := by
  decide

/-- T4: the extreme index. -/
theorem test_ackRes_delivers :
    got (fun t => (t.slot 255, t.history)) (exec (.ackRes 255) (holding 255 2)) = some (none, [.done ⟨2⟩]) := by
  decide

/-- T1: the second resolve is silent. -/
theorem test_ackRes_empty : got State.history (exec (.ackRes 5) enabled) = some [] := by decide

/-- T3. -/
theorem test_ackRel : got (fun t => (t.slot 5, t.history)) (exec (.ackRel 5) (holding 5 1)) = some (none, []) := by
  decide

/-- K1. -/
theorem test_rxEn : got State.rxEn (exec .rxEn State.reset) = some true := by decide

/-- K2: the partial frame is kept. -/
theorem test_rxDis :
    got (fun t => (t.rxEn, t.req, t.buf)) (exec .rxDis collecting) = some (false, 5, [0x04, 0x02]) := by
  decide

/-- K4. -/
theorem test_reserved :
    got State.history (exec .oprsv6 enabled) = some [.operr 6] ∧
    got State.history (exec .oprsv7 enabled) = some [.operr 7] := by
  decide

/-- S2. -/
theorem test_route_ack :
    got (fun t => (t.history, t.slot 5, t.frmQ)) (exec .route (queued 5 1 [ack5]))
      = some ([.done ⟨1⟩, .response 5 0], none, []) := by
  decide

/-- 2.5, "Length check": logged, and the slot stays. -/
theorem test_route_mismatch :
    got (fun t => (t.history, t.slot 5, t.frmQ)) (exec .route (queued 5 1 [[0x04, 0x02, 0x00, 0x05]]))
      = some ([.logLengthMismatch], some ⟨1⟩, []) := by
  decide

/-- Case 4 of R170: an unlisted code. -/
theorem test_ackFrm :
    got (fun t => (t.history, t.slot 5)) (exec (.ackFrm 4 0 5 127 []) (holding 5 1))
      = some ([.done ⟨1⟩, .response 5 127], none) := by
  decide

/-- S1. -/
theorem test_fwdFrm : got State.history (exec (.fwdFrm temp) enabled) = some [.fwd temp] := by decide

/-- K3. -/
theorem test_reset :
    got (fun t => (t.rxEn, t.req, t.seqCtr, t.slot 5))
      (exec .reset { queued 5 1 [ack5] with req := 5, buf := [0x04, 0x02], seqCtr := 3 }) = some (false, 0, 0, none) := by
  decide

/-- A step takes the next request: S2's chunk as transfers. -/
theorem test_step_chunk :
    got (fun t => (t.frmQ, t.inputs))
      (step { enabled with inputs := [.rxChunk [0x004, 0x002, 0x000, 0x005, 0x100], .routerTurn] })
      = some ([ack5], [.routerTurn]) := by
  decide

/-- A placed table word is what the next step runs: `RXEN`, op = 100. -/
theorem test_step_placed_word : got State.rxEn (step (State.reset.withFetchWord 8 0b100)) = some true := by decide

/-- R130, R8: the counter counts modulo `SEQ_MOD`, whatever that parameter is. -/
theorem test_seqNext_modulus :
    got State.seqCtr (exec .seqNext { State.resetOf { seqMod := 16, ackType := 2, tagWidth := 8 } with seqCtr := 15 })
      = some 0 := by
  decide

/-- R77, R8: a byte below another `LEN_MIN` desynchronises. -/
theorem test_chunk_other_range :
    got State.frmQ (exec (.chunk ack5) { State.resetOf { lenMin := 8, ackType := 2, tagWidth := 8 } with rxEn := true })
      = some [] := by
  decide

/-- R221 to R227: each condition at an operation that raises it. -/
theorem test_raises :
    raises (.chunk [0x03]) enabled = some .framingDesync ∧ raises (.chunk ack5) enabled = none ∧
    raises .route (queued 5 1 [[0x04, 0x02, 0x00, 0x05]]) = some .lengthMismatch ∧
    raises (.byte 0x03 false) { enabled with live := true, first := false } = some .framingDesync ∧
    raises (.byte 0x03 false) collecting = none ∧ raises .route (queued 6 1 [ack5]) = some (.resolveMiss 5) ∧
    raises (.ackRes 5) enabled = some (.resolveMiss 5) ∧
    raises (.ackReg 5 ⟨2⟩) (holding 5 1) = some (.slotOverwrite 5) ∧ raises .oprsv6 enabled = some (.reservedOp 6) := by
  decide

/-! ## The hypotheses of the statements can be met -/

theorem witness_DecodeInvertsEncode :
    Instr.wf std (.chunk ack5) = true ∧ Instr.wf std (.lenOk24 36) = true ∧ Instr.wf std (.ackFrm 4 0 255 0 []) = true ∧
    Instr.wf std (.fwdFrm temp) = true := by
  decide

/-- A command that uses both fields, one that uses `seq`, one that uses neither, and another form. -/
theorem witness_DecodedOperationsAreWellFormed :
    decode std (.op ⟨1, 255, ⟨255⟩⟩) = .ok (.ackReg 255 ⟨255⟩) ∧ decode std (.op ⟨2, 5, ⟨9⟩⟩) = .ok (.ackRes 5) ∧
    decode std (.op ⟨3, 5, ⟨9⟩⟩) = .ok (.ackRel 5) ∧ decode std (.op ⟨4, 9, ⟨7⟩⟩) = .ok .rxEn ∧
    decode std (.ft temp) = .ok (.fwdFrm temp) := by
  decide

theorem witness_RunIsAChunk_both_sides :
    decode std (.rxc [0x004, 0x1FF]) = .ok (.chunk [0x04, 0xFF]) ∧ RxTransfer.last 0x004 = false ∧
    RxTransfer.last 0x1FF = true ∧ decode std (.rxc [0x1FF, 0x004]) ≠ .ok (.chunk [0xFF, 0x04]) := by
  decide

/-- One witness for each clause. -/
theorem witness_StepRunsTheDecodedOperation :
    ((requesting enabled (.rxChunk [0x100])).inputs = .rxChunk [0x100] :: [] ∧
      decode enabled.cfg (.rxc [0x100]) = .ok (.chunk [0x00])) ∧
    ((requesting enabled (.rxTransfer 0x1FF)).inputs = .rxTransfer 0x1FF :: [] ∧
      decode enabled.cfg (.rxb 0x1FF) = .ok (.byte 0xFF true)) ∧
    ((requesting enabled (.command ⟨7, 255, ⟨0⟩⟩)).inputs = .command ⟨7, 255, ⟨0⟩⟩ :: [] ∧
      decode enabled.cfg (.op ⟨7, 255, ⟨0⟩⟩) = .ok .oprsv7) ∧
    ((requesting enabled (.resetInput 1)).inputs = .resetInput 1 :: [] ∧ decode enabled.cfg (.rst 1) = .ok .reset) ∧
    ((requesting (queued 5 1 [ack5]) .routerTurn).inputs = .routerTurn :: [] ∧
      (requesting (queued 5 1 [ack5]) .routerTurn).frmQ ≠ [] ∧ decode enabled.cfg .int = .ok .route) ∧
    ((queued 5 1 [ack5]).inputs = [] ∧ (queued 5 1 [ack5]).frmQ ≠ [] ∧ decode enabled.cfg .int = .ok .route) ∧
    ((requesting collecting .inspection).inputs = .inspection :: [] ∧
      (requesting collecting .inspection).buf = 0x04 :: [0x02] ∧
      decode enabled.cfg (.lb 0x04) = .ok (.lenOk04 0x04)) ∧
    ((requesting enabled .inspection).inputs = .inspection :: [] ∧ (requesting enabled .inspection).buf = [] ∧
      decode enabled.cfg .lbe = .ok .lenNone) ∧
    ((requesting (queued 5 1 [temp]) .frameInHand).inputs = .frameInHand :: [] ∧
      (requesting (queued 5 1 [temp]) .frameInHand).frmQ = temp :: [] ∧
      decode enabled.cfg (.ft temp) = .ok (.fwdFrm temp)) := by
  decide

/-- One witness for each clause. -/
theorem witness_StepsWithoutAnOperation :
    (enabled.inputs = [] ∧ enabled.frmQ = []) ∧
    (requesting enabled .routerTurn).frmQ = [] ∧ (requesting enabled .routerTurn).inputs = .routerTurn :: [] ∧
    (requesting enabled .frameInHand).frmQ = [] ∧ (requesting enabled .frameInHand).inputs = .frameInHand :: [] ∧
    (requesting enabled (.resetInput 0)).inputs = .resetInput 0 :: [] ∧
    (requesting enabled (.rxChunk [0x000])).inputs = .rxChunk [0x000] :: [] ∧
    decode enabled.cfg (.rxc [0x000]) = .error .notAChunk ∧
    (requesting enabled (.command ⟨1, 5, ⟨256⟩⟩)).inputs = .command ⟨1, 5, ⟨256⟩⟩ :: [] ∧
    Tag.fits enabled.cfg ⟨256⟩ = false := by
  decide

theorem witness_PlacedTableWordIsExecutedNext :
    decodeTableWord 8 7 = some .oprsv7 ∧ decodeTableWord 8 8 = some (.lenOk08 8) ∧
    decodeTableWord 16 0x1FF = some (.byte 0xFF true) := by
  decide

theorem witness_InnerCasesAloneAddNoBehaviour :
    (requesting collecting .inspection).inv = true ∧ collecting.cfg.sourceLengths = true ∧
    (requesting collecting .inspection).inputs = .inspection :: [] ∧
    (requesting (queued 5 1 [ack5]) .frameInHand).inv = true ∧
    (requesting (queued 5 1 [ack5]) .frameInHand).inputs = .frameInHand :: [] := by
  decide +kernel

theorem witness_ShutGateDiscardsTheChunk : State.reset.rxEn = false := by decide

theorem witness_ChunkRunsTheLoopOfTheSource : collecting.rxEn = true := by decide

theorem witness_ChunkLoopPassesAreBounded :
    enabled.atRest = true ∧ ∃ t, LoopRuns 1 { enabled with buf := enabled.buf ++ [0x24] } t :=
  ⟨by decide, _, .lengthOk 0 _ _ 0x24 [] (by decide) rfl (by decide) (by decide) (.stop _ (by decide))⟩

theorem witness_EmittedFramesAreWellFormed :
    enabled.atRest = true ∧ (∃ t, exec (.chunk ack5) enabled = .next t) ∧ (∃ t, exec (.byte 0x24 true) enabled = .next t) :=
  ⟨by decide, ⟨_, rfl⟩, _, rfl⟩

theorem witness_ChunkConservesTheBytes : enabled.rxEn = true := by decide

/-- Both ranges at their ends, and the empty buffer; the second frame of `ack5 ++ [0x24]` begins after an emit. -/
theorem witness_ChunkLoopExecutesTheLengthRow :
    enabled.cfg.sourceLengths = true ∧
    ((framing (ack5 ++ [0x24]) 5).req ≤ (framing (ack5 ++ [0x24]) 5).buf.length ∧
      (framing (ack5 ++ [0x24]) 5).collectFrame.buf = [0x24] ∧ decode std (.lb 0x24) = .ok (.lenOk24 0x24) ∧
      ∃ t, exec (.lenOk24 0x24) (framing (ack5 ++ [0x24]) 5).collectFrame = .next t) ∧
    ((framing [0x04] 0).req ≤ 1 ∧ (framing [0x04] 0).collectFrame.buf = [0x04] ∧
      decode std (.lb 0x04) = .ok (.lenOk04 0x04) ∧
      ∃ t, exec (.lenOk04 0x04) (framing [0x04] 0).collectFrame = .next t) ∧
    ((framing [0x03] 0).req ≤ 1 ∧ (framing [0x03] 0).collectFrame.buf = [0x03] ∧
      decode std (.lb 0x03) = .ok (.lenBad00 0x03) ∧
      ∃ t, exec (.lenBad00 0x03) (framing [0x03] 0).collectFrame = .next t) ∧
    ((framing [0x25] 0).req ≤ 1 ∧ (framing [0x25] 0).collectFrame.buf = [0x25] ∧
      decode std (.lb 0x25) = .ok (.lenBad25 0x25) ∧
      ∃ t, exec (.lenBad25 0x25) (framing [0x25] 0).collectFrame = .next t) ∧
    ((framing ack5 5).req ≤ (framing ack5 5).buf.length ∧ (framing ack5 5).collectFrame.buf = [] ∧
      decode std .lbe = .ok .lenNone ∧ ∃ t, exec .lenNone (framing ack5 5).collectFrame = .next t) :=
  ⟨by decide, ⟨by decide, by decide, by decide, _, rfl⟩, ⟨by decide, by decide, by decide, _, rfl⟩,
    ⟨by decide, by decide, by decide, _, rfl⟩, ⟨by decide, by decide, by decide, _, rfl⟩,
    by decide, by decide, by decide, _, rfl⟩

/-- V6: one frame, then 0x03. -/
theorem witness_DesyncDiscardsTheRestOfTheChunk :
    enabled.rxEn = true ∧ enabled.atRest = true ∧ (∀ p ∈ [ack5], frameOk enabled.cfg p = true) ∧
    (0x03 : Byte).toNat < enabled.cfg.lenMin ∧
    enabled.buf ++ (ack5 ++ [0x03, 0x04, 0x02, 0x00, 0x06, 0x00])
      = [ack5].flatten ++ 0x03 :: [0x04, 0x02, 0x00, 0x06, 0x00] := by
  decide

/-- V1 for the first clause; for the second V13, and a lone 0x24. -/
theorem witness_ChunkEmitsWholeFramesAndKeepsThePartialOne :
    enabled.rxEn = true ∧ enabled.atRest = true ∧ (∀ p ∈ [ack5], frameOk enabled.cfg p = true) ∧
    enabled.buf ++ ack5 = [ack5].flatten ++ [] ∧
    enabled.buf ++ (ack5 ++ [0x04]) = [ack5].flatten ++ [0x04] ∧ enabled.cfg.lenMin ≤ (0x04 : Byte).toNat ∧
    (0x04 : Byte).toNat ≤ enabled.cfg.lenMax ∧ [(0x04 : Byte)].length < (0x04 : Byte).toNat + 1 ∧
    enabled.buf ++ [0x24] = ([] : List Frame).flatten ++ [0x24] ∧ [(0x24 : Byte)].length < (0x24 : Byte).toNat + 1 := by
  decide

/-- V2: one packet in two chunks. -/
theorem witness_SplitInvariance :
    (∀ p ∈ [ack5], ∃ len body, p = len :: body ∧
      enabled.cfg.lenMin ≤ len.toNat ∧ len.toNat ≤ enabled.cfg.lenMax ∧ p.length = len.toNat + 1) ∧
    [[0x04], [0x02, 0x00, 0x05, 0x00]].flatten = [ack5].flatten ∧ enabled.rxEn = true ∧ enabled.req = 0 ∧
    enabled.buf = [] := by
  refine ⟨?_, by decide⟩
  intro p hp
  rw [List.mem_singleton] at hp
  exact ⟨0x04, [0x02, 0x00, 0x05, 0x00], hp, by decide, by decide, by rw [hp]; decide⟩

theorem witness_BadFirstByteLosesOnlyItsChunk :
    enabled.rxEn = true ∧ enabled.req = 0 ∧ enabled.buf = [] ∧ (0x03 : Byte).toNat < enabled.cfg.lenMin ∧
    enabled.cfg.lenMax < (0x25 : Byte).toNat := by
  decide

/-- One witness for each clause: the gate shut, SKIP, IDLE at 4 and 36 and at 3 and 37, COLLECT before and at the end. -/
theorem witness_ByteFollowsThePhaseMachine :
    (if State.reset.first then State.reset.rxEn else State.reset.live) = false ∧
    (if skipping.first then false else skipping.skip) = true ∧
    (if enabled.first then enabled.rxEn else enabled.live) = true ∧ (if enabled.first then false else enabled.skip) = false ∧
    enabled.req = 0 ∧ enabled.cfg.lenMin ≤ (0x04 : Byte).toNat ∧ (0x24 : Byte).toNat ≤ enabled.cfg.lenMax ∧
    (0x03 : Byte).toNat < enabled.cfg.lenMin ∧ enabled.cfg.lenMax < (0x25 : Byte).toNat ∧
    (collecting.req ≠ 0 ∧ collecting.buf.length + 1 ≠ collecting.req) ∧
    (framing [0x04, 0x02, 0x00, 0x05] 5).req ≠ 0 ∧ (framing [0x04, 0x02, 0x00, 0x05] 5).buf.length + 1 = 5 := by
  decide

theorem witness_ByteSerialFramerEqualsChunk :
    collecting.atRest = true ∧ collecting.first = true ∧ [(0x00 : Byte)] ≠ [] := by
  decide

/-- The largest buffer at rest: 36 bytes of a frame of 37. -/
theorem witness_BufferAtRestIsBounded :
    (framing (List.replicate 36 0x24) 37).atRest = true := by
  decide

theorem witness_FramingDesyncIsRaisedExactlyAtABadLengthByte :
    collecting.rxEn = true ∧ collecting.atRest = true ∧
    raises (.chunk [0x00, 0x05, 0x00, 0x25]) collecting = some .framingDesync := by
  decide

/-- The least and the greatest value of the counter, and the source value of `SEQ_MOD`. -/
theorem witness_SeqNextCyclesWithoutGapsOrRepeats :
    enabled.counterOk = true ∧ State.counterOk { enabled with seqCtr := 255 } = true ∧ 255 < enabled.cfg.seqMod ∧
    enabled.cfg.seqMod = 256 := by
  decide

theorem witness_CounterIsSeenOnlyBySeqNext : Instr.route ≠ .seqNext ∧ Instr.route ≠ .reset := by decide

theorem witness_AckOperations_other_slot : (254 : SeqNum) ≠ 255 := by decide

theorem witness_AckResDeliversAndEmptiesItsSlot : (holding 255 1).slot 255 = some ⟨1⟩ ∧ enabled.slot 0 = none := by
  decide

/-- Both clauses, the second for either of its reasons. -/
theorem witness_SlotsAreIndependent :
    sparesSlot 5 (.ackRes 4) = true ∧
    ((queued 5 1 [[0x04, 0x02, 0x00, 0x06, 0x00]]).frmQ = [0x04, 0x02, 0x00, 0x06, 0x00] :: [] ∧
      ([0x04, 0x02, 0x00, 0x06, 0x00] : Frame)[3]? ≠ some (5 : Byte)) ∧
    ((queued 5 1 [temp]).frmQ = temp :: [] ∧ temp[1]? ≠ some (queued 5 1 [temp]).cfg.ackType) := by
  decide

/-- The ops between are a `CHUNK` that queues the acknowledgement. -/
theorem witness_RegisteredTagIsDeliveredByTheNextResolve :
    (∀ i ∈ [Instr.chunk ack5], sparesSlot 5 i = true) ∧
    ∃ u, runOps [.ackReg 5 ⟨1⟩, .chunk ack5] enabled = .next u ∧ u.frmQ = [4, u.cfg.ackType, 0, 5, 0] :: [] := by
  exact ⟨by decide, _, rfl, by decide⟩

theorem witness_DeliveriesNeverExceedRegistrations :
    ∃ t, runOps [.ackReg 5 ⟨1⟩, .ackRes 5] enabled = .next t ∧ t.deliveries ⟨1⟩ = 1 :=
  ⟨_, rfl, by decide⟩

theorem witness_MismatchedFrameIsLoggedAndDropped :
    (queued 5 1 [[0x04, 0x02, 0x00, 0x05]]).frmQ = [0x04, 0x02, 0x00, 0x05] :: [] ∧
    ∀ len, ([0x04, 0x02, 0x00, 0x05] : Frame)[0]? = some len → 4 ≠ len.toNat + 1 := by
  refine ⟨rfl, ?_⟩
  rintro len ⟨⟩
  decide

theorem witness_AckFrameResolvesBeforeTheResponse :
    (queued 5 1 [ack5]).frmQ = [4, (queued 5 1 [ack5]).cfg.ackType, 0, 5, 0] :: [] ∧
    (queued 5 1 [ack5]).slot 5 = some ⟨1⟩ ∧ (queued 6 1 [ack5]).slot 5 = none := by
  decide

/-- The shortest and the longest acknowledgement. -/
theorem witness_AckFrameIsRoutedByBytesThreeAndFour :
    (let s := queued 5 1 [[0x04, 0x02, 0x01, 0x05, 0x00]]
     s.frmQ = (0x04 :: s.cfg.ackType :: 0x01 :: 0x05 :: 0x00 :: []) :: [] ∧ ([] : List Byte).length + 4 = 4) ∧
    (let s := queued 5 1 [[0x24, 0x02, 0x01, 0x05, 0x00] ++ List.replicate 32 0]
     s.frmQ = (0x24 :: s.cfg.ackType :: 0x01 :: 0x05 :: 0x00 :: List.replicate 32 0) :: [] ∧
       (List.replicate 32 (0 : Byte)).length + 4 = (0x24 : Byte).toNat) := by
  decide

theorem witness_OtherFramesAreForwardedUnchanged :
    (queued 5 1 [temp]).frmQ = (0x08 :: 0x50 :: [0x01, 0x00, 0x12, 0x34, 0x80, 0x05, 0x29]) :: [] ∧
    ([0x01, 0x00, 0x12, 0x34, 0x80, 0x05, 0x29] : List Byte).length + 1 = (0x08 : Byte).toNat ∧
    (0x50 : Byte) ≠ (queued 5 1 [temp]).cfg.ackType := by
  decide

theorem witness_FrameRowsActOnTheFrameInHand : (holding 0 1).slot 0 = some ⟨1⟩ ∧ (holding 0 1).slot 255 = none := by
  decide

theorem witness_RouteExecutesTheFrameRow :
    (queued 5 1 [ack5, temp]).frmQ = ack5 :: [temp] ∧
    decode (queued 5 1 [ack5, temp]).cfg (.ft ack5) = .ok (.ackFrm 4 0 5 0 []) := by
  decide

theorem witness_RouteIsNotEnabledOnAnEmptyQueue : enabled.frmQ = [] := by decide

theorem witness_ResultCodeDoesNotSteerTheTable :
    (queued 5 1 [ack5]).frmQ = [4, (queued 5 1 [ack5]).cfg.ackType, 0, 5, 0] :: [] := by
  decide

/-- The largest command. -/
theorem witness_SequenceNumberStandsAtOffsetThree :
    Command.fits ⟨0x10, 0x00, 7, 0x01, List.replicate 251 0⟩ = true := by
  rw [Command.fits, List.length_replicate]
  rfl

theorem witness_AcknowledgementRoundTrip :
    enabled.cfg.lenMin ≤ 4 ∧ 4 ≤ enabled.cfg.lenMax ∧
    enabled.rxEn = true ∧ enabled.req = 0 ∧ enabled.buf = [] ∧ enabled.frmQ = [] := by
  decide

theorem witness_ReservedCodesOnlyReportThemselves : Tag.fits enabled.cfg ⟨255⟩ = true := by decide

theorem witness_OnlyTheReceivePortIsMasked :
    State.reset.rxEn = false ∧ (∀ c, Instr.route ≠ .chunk c) ∧ (∀ b last, Instr.route ≠ .byte b last) ∧
    Instr.route ≠ .rxEn ∧ Instr.route ≠ .rxDis ∧ Instr.route ≠ .reset := by
  refine ⟨by decide, ?_, ?_, ?_, ?_, ?_⟩ <;> intros <;> exact Instr.noConfusion

theorem witness_EveryStepKeepsTheInvariant :
    (queued 5 1 [ack5]).inv = true ∧ ∃ t, step (queued 5 1 [ack5]) = .next t :=
  ⟨by decide +kernel, _, rfl⟩

/-- Both premises: a run that is a chunk, and a command word whose tag has `TAG_W` bits. -/
theorem witness_NoInputStopsTheBlock :
    (requesting collecting (.rxChunk [0x100])).inv = true ∧
    (∀ run rest, (requesting collecting (.rxChunk [0x100])).inputs = .rxChunk run :: rest →
      ∃ c, decode enabled.cfg (.rxc run) = .ok (.chunk c)) ∧
    (requesting collecting (.command ⟨1, 5, ⟨255⟩⟩)).inv = true ∧
    ∀ w rest, (requesting collecting (.command ⟨1, 5, ⟨255⟩⟩)).inputs = .command w :: rest →
      w.tag.fits enabled.cfg = true := by
  refine ⟨by decide +kernel, ?_, by decide +kernel, ?_⟩
  · rintro run rest ⟨⟩
    exact ⟨[0x00], by decide⟩
  · rintro w rest ⟨⟩
    decide

/-- Both clauses. -/
theorem witness_FrameQueueIsFirstInFirstOut :
    (∃ t, exec .route (queued 5 1 [ack5]) = .next t) ∧ (∃ t, exec (.chunk ack5) (queued 5 1 [ack5]) = .next t) ∧
    Instr.route ≠ .reset ∧ Instr.chunk ack5 ≠ .reset ∧ Instr.chunk ack5 ≠ .route := by
  refine ⟨⟨_, rfl⟩, ⟨_, rfl⟩, ?_, ?_, ?_⟩ <;> exact Instr.noConfusion

/-- An operation that is no writer, for each clause: `CHUNK` leaves `rx_en`, `seq_ctr`, `ack`, the refinement's bits;
`ACKFRM` leaves `frm_q`; `ROUTE` leaves `buf` and `req`; `OPRSV7` leaves them all. Each completes. -/
theorem witness_ElementsAreWrittenOnlyByTheirWriters :
    ((∃ t, exec (.chunk ack5) enabled = .next t) ∧ Instr.chunk ack5 ≠ .reset ∧ Instr.chunk ack5 ≠ .rxEn ∧
      Instr.chunk ack5 ≠ .rxDis ∧ Instr.chunk ack5 ≠ .seqNext ∧ (∀ seq tag, Instr.chunk ack5 ≠ .ackReg seq tag) ∧
      (∀ seq, Instr.chunk ack5 ≠ .ackRes seq) ∧ (∀ seq, Instr.chunk ack5 ≠ .ackRel seq) ∧ Instr.chunk ack5 ≠ .route ∧
      (∀ len subtype seq code more, Instr.chunk ack5 ≠ .ackFrm len subtype seq code more) ∧
      ∀ b last, Instr.chunk ack5 ≠ .byte b last) ∧
    ((∃ t, exec (.ackFrm 4 0 5 0 []) enabled = .next t) ∧ Instr.ackFrm 4 0 5 0 [] ≠ .reset ∧
      (∀ c, Instr.ackFrm 4 0 5 0 [] ≠ .chunk c) ∧ (∀ b last, Instr.ackFrm 4 0 5 0 [] ≠ .byte b last) ∧
      Instr.ackFrm 4 0 5 0 [] ≠ .route) ∧
    ((∃ t, exec .route (queued 5 1 [ack5]) = .next t) ∧ Instr.route ≠ .reset) ∧
    (∃ t, exec .oprsv7 enabled = .next t) ∧ Instr.oprsv7 ≠ .reset := by
  refine ⟨⟨⟨_, rfl⟩, ?_⟩, ⟨⟨_, rfl⟩, ?_⟩, ⟨⟨_, rfl⟩, ?_⟩, ⟨_, rfl⟩, ?_⟩ <;> simp

theorem witness_QueuedFramesAreDrained :
    (queued 5 1 [ack5, temp]).inv = true ∧ (queued 5 1 [ack5, temp]).inputs = [] := by
  decide +kernel

end Sys2Proof.Tests
end

section
/-! Where a step takes its operation from (log entries 3, 4, 9): the fetch by the list of requests, the form each kind of
request presents, and the step that executes what this form decodes to. -/

namespace Sys2Proof.Machine

variable {s s' : State} {r : Request} {rest : List Request} {e : Encoded} {i : Instr}

/-- R58: a fetch takes the first request of the list. -/
theorem fetch_of_request (h : s.inputs = r :: rest) : fetch s = presented r { s with inputs := rest } := by
  simp [fetch, h]

/-- R266: with no request to come a fetch is the router's own turn. -/
theorem fetch_of_no_request (h : s.inputs = []) : fetch s = routerForm s := by
  simp [fetch, h]

/-- R161: with a frame queued `ROUTE` is enabled. -/
theorem routerForm_of_queued (h : s.frmQ ≠ []) : routerForm s = some (.int, s) := by
  simp [routerForm, h]

theorem presented_routerTurn (h : s.frmQ ≠ []) : presented .routerTurn s = some (.int, s) :=
  routerForm_of_queued h

/-- R77: with a byte in the buffer an inspection presents the one at its head. -/
theorem presented_inspection_cons {b : Byte} {body : List Byte} (h : s.buf = b :: body) :
    presented .inspection s = some (.lb b, s) := by
  simp [presented, h]

/-- R108: with an empty buffer an inspection presents its emptiness. -/
theorem presented_inspection_nil (h : s.buf = []) : presented .inspection s = some (.lbe, s) := by
  simp [presented, h]

/-- R161: a frame taken in hand is the head of the queue and leaves it. -/
theorem presented_frameInHand {p : Frame} {queue : List Frame} (h : s.frmQ = p :: queue) :
    presented .frameInHand s = some (.ft p, s.setQueue queue) := by
  simp [presented, h]

/-- R93: the reset input decodes to an operation only when it is asserted. -/
theorem decode_rst_asserted {cfg : Config} {b : BitVec 1} (h : decode cfg (.rst b) = .ok i) : b = 1 := by
  by_contra hb
  simp only [decode, if_neg hb, reduceCtorEq] at h

/-- A reset input that decodes to an operation presents itself. -/
theorem presented_resetInput {b : BitVec 1} (h : decode s.cfg (.rst b) = .ok i) :
    presented (.resetInput b) s = some (.rst b, s) := by
  simp [presented, decode_rst_asserted h]

/-- R14: a step executes the operation that the fetched form decodes to, in the state the fetch leaves. -/
theorem step_of_fetch (hf : fetch s = some (e, s')) (hd : decode s'.cfg e = .ok i) : step s = exec i s' := by
  simp [step, hf, runForm, hd]

/-- The same, for the form that the next request presents. -/
theorem step_of_request (hin : s.inputs = r :: rest) (hp : presented r { s with inputs := rest } = some (e, s'))
    (hd : decode s'.cfg e = .ok i) : step s = exec i s' :=
  step_of_fetch ((fetch_of_request hin).trans hp) hd

/-- Settles O6: one clause for each kind of request, by the form that the request presents. -/
theorem stepRunsTheDecodedOperation : Obligations.StepRunsTheDecodedOperation := by
  intro s rest i
  refine ⟨?chunk, ?transfer, ?command, ?reset, ?turn, ?ownTurn, ?inspectHead, ?inspectEmpty, ?inHand⟩
  case chunk => exact fun _ hin hd => step_of_request hin rfl hd
  case transfer => exact fun _ hin hd => step_of_request hin rfl hd
  case command => exact fun _ hin hd => step_of_request hin rfl hd
  case reset => exact fun _ hin hd => step_of_request hin (presented_resetInput hd) hd
  case turn => exact fun hin hq hd => step_of_request hin (presented_routerTurn hq) hd
  case ownTurn => exact fun hin hq hd => step_of_fetch ((fetch_of_no_request hin).trans (routerForm_of_queued hq)) hd
  case inspectHead => exact fun _ _ hin hb hd => step_of_request hin (presented_inspection_cons hb) hd
  case inspectEmpty => exact fun hin hb hd => step_of_request hin (presented_inspection_nil hb) hd
  case inHand => exact fun _ _ hin hq hd => step_of_request hin (presented_frameInHand hq) hd

end Sys2Proof.Machine
end

section
/-! The invariant of the block (R25, R27, R30, R34, R37): what each shared operation keeps of it, what a fetch presents
where it holds, and so that every step keeps it. -/

namespace Sys2Proof.Machine

variable {s t : State}

theorem inv_iff (s : State) : s.inv = true ↔
    s.atRest = true ∧ s.queueOk = true ∧ s.skipOk = true ∧ s.counterOk = true ∧ s.tableOk = true := by
  simp [State.inv, and_assoc]

theorem queueOk_iff (s : State) : s.queueOk = true ↔ ∀ p ∈ s.frmQ, frameOk s.cfg p = true := List.all_eq_true

theorem counterOk_iff (s : State) : s.counterOk = true ↔ s.seqCtr.toNat < s.cfg.seqMod := decide_eq_true_iff

/-- Settles O28: the two phases of a state at rest, the length byte of the frame in COLLECT being in range. -/
theorem bufferAtRestIsBounded : Obligations.BufferAtRestIsBounded := by
  intro s h
  obtain ⟨hr, hb⟩ | ⟨b, body, hb, hok, hr, hl⟩ := atRest_cases h
  · exact ⟨by simp [hb], .inl hr⟩
  · have hrange := (lengthOk_iff _ _).1 hok
    have hlen : s.buf.length = body.length + 1 := by rw [hb]; rfl
    exact ⟨by omega, .inr ⟨by rw [Config.frameMin]; omega, by rw [Config.frameMax]; omega⟩⟩

/-! ### Reset -/

theorem inv_resetOf (cfg : Config) : (State.resetOf cfg).inv = true :=
  (inv_iff _).2 ⟨atRest_idle rfl rfl, rfl, rfl, (counterOk_iff _).2 cfg.seqInit_lt, tableOk_resetOf cfg⟩

/-- Settles O54: the state after reset is in IDLE, its queue and table are empty, and `SEQ_INIT` is below `SEQ_MOD`. -/
theorem invariantHoldsAtReset : Obligations.InvariantHoldsAtReset :=
  ⟨inv_resetOf Config.atReset, inv_resetOf⟩

/-- Settles O10: the fields of the state after reset, read off its definition. -/
theorem resetStateHoldsTheResetValues : Obligations.ResetStateHoldsTheResetValues := by
  have hslots : State.reset.ack.slots.length = 256 := List.length_replicate
  exact ⟨rfl, rfl, rfl, rfl, rfl, rfl, rfl, fun q => slot_resetOf q Config.atReset, rfl, rfl, rfl, rfl, rfl, rfl, rfl,
    hslots⟩

/-! ### The shared operations -/

theorem inv_emit (s : State) (e : Event) : (s.emit e).inv = s.inv := rfl

theorem inv_setSlot (h : s.inv = true) (q : SeqNum) {v : Option Tag}
    (hv : ∀ tag, v = some tag → tag.fits s.cfg = true) : (s.setSlot q v).inv = true := by
  obtain ⟨hrest, hqueue, hskip, hcounter, htable⟩ := (inv_iff s).1 h
  exact (inv_iff _).2 ⟨hrest, hqueue, hskip, hcounter, tableOk_setSlot htable q hv⟩

theorem inv_resolve (h : s.inv = true) (q : SeqNum) : (s.resolve q).inv = true := by
  obtain ⟨-, e⟩ | ⟨tag, -, e⟩ := resolve_cases s q <;> rw [e]
  · exact h
  · exact inv_setSlot (s := s.emit (.done tag)) h q (by simp)

theorem inv_acknowledge (h : s.inv = true) (q : SeqNum) (code : Byte) : (s.acknowledge q code).inv = true :=
  inv_resolve h q

theorem inv_setQueue {p : Frame} {rest : List Frame} (h : s.inv = true) (hq : s.frmQ = p :: rest) :
    (s.setQueue rest).inv = true := by
  obtain ⟨hrest, hqueue, hskip, hcounter, htable⟩ := (inv_iff s).1 h
  refine (inv_iff _).2 ⟨hrest, (queueOk_iff _).2 fun p' hp' => ?_, hskip, hcounter, htable⟩
  exact (queueOk_iff s).1 hqueue p' (by rw [hq]; exact List.mem_cons_of_mem p hp')

theorem inv_advanceCounter (h : s.inv = true) : s.advanceCounter.inv = true := by
  obtain ⟨hrest, hqueue, hskip, -, htable⟩ := (inv_iff s).1 h
  refine (inv_iff _).2 ⟨hrest, hqueue, hskip, (counterOk_iff _).2 ?_, htable⟩
  rw [advanceCounter_toNat]
  exact Nat.mod_lt _ s.cfg.seqMod_pos

theorem inv_desync (h : s.inv = true) : s.desync.inv = true := by
  obtain ⟨-, hqueue, hskip, hcounter, htable⟩ := (inv_iff s).1 h
  exact (inv_iff _).2 ⟨atRest_idle rfl rfl, hqueue, hskip, hcounter, htable⟩

/-- At rest a frame in progress has been started by the byte at the head of the buffer, so that starting it again
changes nothing. -/
theorem startFrame_head {b : Byte} {body : List Byte} (h : s.atRest = true) (hb : s.buf = b :: body) :
    s.startFrame b = s := by
  obtain ⟨-, hb'⟩ | ⟨d, body', hb', -, hr, -⟩ := atRest_cases h
  · simp [hb] at hb'
  · obtain ⟨rfl, -⟩ := List.cons.inj (hb.symm.trans hb')
    rw [State.startFrame, reqOfLength, ← hr]

/-! ### The Framer -/

/-- The invariant inside a chunk of the byte-serial refinement, where the block may be in SKIP (R27). -/
def State.invInChunk (s : State) : Prop :=
  s.atRest = true ∧ s.queueOk = true ∧ s.counterOk = true ∧ s.tableOk = true

theorem inv_iff_invInChunk (s : State) : s.inv = true ↔ s.invInChunk ∧ s.skipOk = true := by
  rw [inv_iff, State.invInChunk]; tauto

theorem invInChunk_latchGate (h : s.invInChunk) : s.latchGate.invInChunk := by
  unfold State.latchGate; split <;> exact h

theorem takeByte_seqCtr (s : State) (b : Byte) : (s.takeByte b).seqCtr = s.seqCtr := by
  unfold State.takeByte; (repeat' split) <;> rfl

theorem takeByte_ack (s : State) (b : Byte) : (s.takeByte b).ack = s.ack := by
  unfold State.takeByte; (repeat' split) <;> rfl

theorem invInChunk_takeByte (h : s.invInChunk) (b : Byte) : (s.takeByte b).invInChunk := by
  obtain ⟨hrest, hqueue, hcounter, htable⟩ := h
  refine ⟨takeByte_atRest hrest b, (queueOk_iff _).2 ?_, (counterOk_iff _).2 ?_, ?_⟩
  · obtain ⟨frames, hfrmQ, hframes⟩ := takeByte_frames hrest b
    rw [hfrmQ, takeByte_cfg, List.forall_mem_append]
    exact ⟨(queueOk_iff s).1 hqueue, hframes⟩
  · rw [takeByte_seqCtr, takeByte_cfg]
    exact (counterOk_iff s).1 hcounter
  · rwa [tableOk_congr (takeByte_cfg s b) (takeByte_ack s b)]

/-- What implies rest and is kept by an accepted byte is kept by an open `CHUNK` (R113). -/
theorem chunk_induction {P : State → Prop} (hrest : ∀ s, P s → s.atRest = true)
    (hbyte : ∀ s b, P s → P (s.takeByte b)) (c : List Byte) : ∀ s : State, P s → P (s.chunk c) := by
  induction c with
  | nil => intro s h; rwa [chunk_nil (hrest s h)]
  | cons b c ih =>
    intro s h
    by_cases hok : s.req = 0 → lengthOk s.cfg b = true
    · rw [chunk_cons (hrest s h) hok]
      exact ih _ (hbyte s b h)
    · obtain ⟨hr, hbad⟩ := Classical.not_imp.1 hok
      obtain ⟨-, hb⟩ | ⟨_, _, -, -, hr', -⟩ := atRest_cases (hrest s h)
      · rwa [chunk_cons_bad hr hb (by simpa using hbad)]
      · omega

theorem skipOk_chunk (s : State) (c : List Byte) : (s.chunk c).skipOk = s.skipOk := by
  obtain ⟨out, h⟩ := chunk_framed c
  rw [h]; rfl

theorem inv_chunk (h : s.inv = true) (c : List Byte) : (s.chunk c).inv = true := by
  rw [inv_iff_invInChunk] at h ⊢
  rw [skipOk_chunk]
  exact ⟨chunk_induction (P := State.invInChunk) (fun _ h => h.1) (fun _ b h => invInChunk_takeByte h b) c s h.1, h.2⟩

/-- The last transfer of a chunk ends SKIP (R27). -/
theorem inv_endTransfer (h : s.invInChunk) (last : Bool) : (s.endTransfer last).inv = true :=
  (inv_iff_invInChunk _).2 ⟨h, by cases last <;> simp [State.skipOk]⟩

/-! ### The operations -/

theorem execChunk_inv (h : s.inv = true) {c : List Byte} (ht : execChunk c s = .next t) : t.inv = true := by
  cases ht
  split
  · exact inv_chunk h c
  · exact h

theorem execByte_inv (h : s.inv = true) {b : Byte} {last : Bool} (ht : execByte b last s = .next t) :
    t.inv = true := by
  have hlatched := invInChunk_latchGate ((inv_iff_invInChunk s).1 h).1
  cases ht
  refine inv_endTransfer ?_ last
  split
  · exact invInChunk_takeByte hlatched b
  · exact hlatched

/-- A length-byte row starts a frame or desynchronises (R106, R107). -/
theorem exec_lengthRow {b : Byte} {i : Instr} (h : decodeLength b = some i) (s : State) :
    exec i s = .next (s.startFrame b) ∨ exec i s = .next s.desync := by
  obtain ⟨row, hm, -, rfl⟩ := decodeLength_row h
  simp only [lengthRows, List.cons_append, List.nil_append, List.mem_cons, List.not_mem_nil, or_false] at hm
  obtain rfl | rfl | rfl | rfl | rfl | rfl | rfl | rfl | rfl | rfl | rfl | rfl := hm
  -- R77 lists `LENBAD_00`, then the five `LENOK` rows, then the other `LENBAD` rows.
  · exact .inr rfl
  iterate 5 exact .inl rfl
  all_goals exact .inr rfl

theorem exec_lengthRow_inv {b : Byte} {body : List Byte} {i : Instr} (h : s.inv = true) (hb : s.buf = b :: body)
    (hrow : decodeLength b = some i) (ht : exec i s = .next t) : t.inv = true := by
  obtain e | e := exec_lengthRow hrow s <;> rw [e] at ht <;> cases ht
  · rwa [startFrame_head ((inv_iff s).1 h).1 hb]
  · exact inv_desync h

/-- Everything a turn of the router that completes can do: the head of the queue is taken, and it is acknowledged,
logged or forwarded (R161). -/
theorem execRoute_next (ht : execRoute s = .next t) : ∃ p rest, s.frmQ = p :: rest ∧
    ((∃ seq code, t = (s.setQueue rest).acknowledge seq code) ∨
      ∃ e, (e = .logLengthMismatch ∨ e = .fwd p) ∧ t = (s.setQueue rest).emit e) := by
  cases hq : s.frmQ with
  | nil => simp [execRoute, hq] at ht
  | cons p rest =>
    refine ⟨p, rest, rfl, ?_⟩
    rw [execRoute_cons s hq] at ht
    obtain ⟨-, e⟩ | ⟨_, _, seq, code, _, -, e⟩ | ⟨-, e⟩ | ⟨-, e⟩ := routeFrame_cases (s.setQueue rest) p <;>
      rw [e] at ht <;> cases ht
    · exact .inr ⟨_, .inl rfl, rfl⟩
    · exact .inl ⟨seq, code, rfl⟩
    · exact .inr ⟨_, .inr rfl, rfl⟩

theorem execRoute_inv (h : s.inv = true) (ht : execRoute s = .next t) : t.inv = true := by
  obtain ⟨p, rest, hq, ⟨seq, code, rfl⟩ | ⟨e, -, rfl⟩⟩ := execRoute_next ht
  · exact inv_acknowledge (inv_setQueue h hq) seq code
  · exact (inv_emit _ e).trans (inv_setQueue h hq)

/-- Every command keeps the invariant; `ACKREG` stores a tag that fits (R84). -/
theorem exec_decodeCommand_inv (h : s.inv = true) {w : CommandWord} (hw : w.tag.fits s.cfg = true)
    (ht : exec (decodeCommand w) s = .next t) : t.inv = true := by
  unfold decodeCommand at ht
  split at ht <;> cases ht
  · exact inv_advanceCounter h
  · exact inv_setSlot h _ (by rintro _ ⟨⟩; exact hw)
  · exact inv_resolve h _
  · exact inv_setSlot h _ (by simp)
  · exact h
  · exact h
  · exact h
  · exact h

theorem exec_decodeFrame_inv (h : s.inv = true) {p : Frame} {i : Instr} (hd : decodeFrame s.cfg p = .ok i)
    (ht : exec i s = .next t) : t.inv = true := by
  obtain ⟨_, _, seq, code, _, -, -, rfl⟩ | ⟨_, _, _, -, -, -, rfl⟩ := decodeFrame_cases hd <;> cases ht
  · exact inv_acknowledge h seq code
  · exact h

/-! ### The step -/

/-- Where the invariant holds it holds in the state in which a form is presented, and a length byte is presented at the
head of the buffer. -/
theorem presented_inv {r : Request} {e : Encoded} (h : s.inv = true) (hp : presented r s = some (e, t)) :
    t.inv = true ∧ ∀ b, e = .lb b → ∃ body, t.buf = b :: body := by
  cases r with
  | inspection =>
    simp only [presented] at hp
    split at hp <;> cases hp
    case h_1 b body hb => exact ⟨h, by rintro _ ⟨⟩; exact ⟨body, hb⟩⟩
    case h_2 => exact ⟨h, by simp⟩
  | frameInHand =>
    simp only [presented] at hp
    split at hp <;> cases hp
    case h_1 hq => exact ⟨inv_setQueue h hq, by simp⟩
  | routerTurn =>
    simp only [presented, routerForm] at hp
    split at hp <;> cases hp
    exact ⟨h, by simp⟩
  | resetInput b =>
    simp only [presented] at hp
    split at hp <;> cases hp
    exact ⟨h, by simp⟩
  | rxChunk _ | rxTransfer _ | command _ => cases hp; exact ⟨h, by simp⟩

/-- The same of a fetch, which takes a request off the list or is the router's own turn. -/
theorem fetch_inv {e : Encoded} (h : s.inv = true) (hf : fetch s = some (e, t)) :
    t.inv = true ∧ ∀ b, e = .lb b → ∃ body, t.buf = b :: body := by
  cases hin : s.inputs with
  | nil => exact presented_inv (r := .routerTurn) h ((fetch_of_no_request hin).symm.trans hf)
  | cons r rest =>
    rw [fetch_of_request hin] at hf
    exact presented_inv (s := { s with inputs := rest }) h hf

/-- Whatever operation a form decodes to keeps the invariant, if a length byte is the one at the head of the buffer. -/
theorem exec_decode_inv {e : Encoded} {i : Instr} (h : s.inv = true)
    (hlb : ∀ b, e = .lb b → ∃ body, s.buf = b :: body) (hd : decode s.cfg e = .ok i)
    (ht : exec i s = .next t) : t.inv = true := by
  cases e with
  | rxc run =>
    simp only [decode] at hd
    split at hd <;> cases hd
    exact execChunk_inv h ht
  | rxb _ => cases hd; exact execByte_inv h ht
  | lb b =>
    obtain ⟨body, hb⟩ := hlb b rfl
    simp only [decode] at hd
    split at hd <;> cases hd
    case h_1 hrow => exact exec_lengthRow_inv h hb hrow ht
  | lbe => cases hd; cases ht; exact inv_desync h
  | op w =>
    simp only [decode] at hd
    split_ifs at hd with hw
    cases hd
    exact exec_decodeCommand_inv h hw ht
  | int => cases hd; exact execRoute_inv h ht
  | ft p => exact exec_decodeFrame_inv h hd ht
  | rst b =>
    simp only [decode] at hd
    split at hd <;> cases hd
    cases ht
    exact inv_resetOf s.cfg

/-- Settles O55: a fetch keeps the invariant, and so does whatever operation the fetched form decodes to. -/
theorem everyStepKeepsTheInvariant : Obligations.EveryStepKeepsTheInvariant := by
  intro s t h ht
  cases hf : fetch s with
  | none => simp only [step, hf] at ht; cases ht; exact h
  | some fetched =>
    obtain ⟨e, s'⟩ := fetched
    obtain ⟨h', hlb⟩ := fetch_inv h hf
    simp only [step, hf, runForm] at ht
    cases hd : decode s'.cfg e with
    | error why => simp [hd] at ht
    | ok i => exact exec_decode_inv h' hlb hd (by simpa only [hd] using ht)

end Sys2Proof.Machine
end

section
/-! What each operation writes (R20), and that no operation interprets a tag (R34) or, but for `SEQNEXT`, sees the
counter (R31): for each operation that is not a single update of the state, what it writes and what it depends on. -/

namespace Sys2Proof.Machine

variable {s t : State}

/-! ### What an operation writes -/

/-- Everything the table operations and the router do to the rest of the state: the table is as given, and events are
appended to the history. -/
def State.answered (ack : Table) (events : List Event) (s : State) : State :=
  { s with ack := ack, history := s.history ++ events }

theorem resolve_answered (s : State) (q : SeqNum) : ∃ ack events, s.resolve q = s.answered ack events := by
  obtain ⟨-, e⟩ | ⟨tag, -, e⟩ := resolve_cases s q
  · exact ⟨s.ack, [], by simp [e, State.answered]⟩
  · exact ⟨((s.emit (.done tag)).setSlot q none).ack, [.done tag], e⟩

theorem acknowledge_answered (s : State) (q : SeqNum) (code : Byte) :
    ∃ ack events, s.acknowledge q code = s.answered ack events := by
  obtain ⟨ack, events, e⟩ := resolve_answered s q
  exact ⟨ack, events ++ [.response q code], by simp [State.acknowledge, e, State.answered, State.emit]⟩

/-- `ROUTE` takes the head of the queue; the rest it does through the table and the history (R161). -/
theorem execRoute_answered (ht : execRoute s = .next t) :
    ∃ p rest ack events, s.frmQ = p :: rest ∧ t = (s.setQueue rest).answered ack events := by
  obtain ⟨p, rest, hq, ⟨seq, code, rfl⟩ | ⟨e, -, rfl⟩⟩ := execRoute_next ht
  · obtain ⟨ack, events, e⟩ := acknowledge_answered (s.setQueue rest) seq code
    exact ⟨p, rest, ack, events, hq, e⟩
  · exact ⟨p, rest, s.ack, [e], hq, rfl⟩

theorem framed_self (s : State) : s.framed [] s.buf s.req = s := by simp [State.framed]

/-- `CHUNK`, whatever the gate is, in the parts of the state it reads (R102). -/
theorem execChunk_framed (c : List Byte) :
    ∃ out : Config → Bool → List Byte → Nat → List Frame × List Byte × Nat, ∀ s : State,
      execChunk c s =
        let o := out s.cfg s.rxEn s.buf s.req
        .next (s.framed o.1 o.2.1 o.2.2) := by
  obtain ⟨out, h⟩ := chunk_framed c
  refine ⟨fun cfg gate buf req => if gate then out cfg buf req else ([], buf, req), fun s => ?_⟩
  cases hg : s.rxEn with
  | true => simp [execChunk, hg, h]
  | false => simp [execChunk, hg, framed_self]

/-- Settles O59: the Framer's operations write as `State.framed`, the table's and the router's as `State.answered`, and
every other operation is one update of the state. -/
theorem elementsAreWrittenOnlyByTheirWriters : Obligations.ElementsAreWrittenOnlyByTheirWriters := by
  intro i s t ht hreset
  cases i with
  | chunk c =>
    obtain ⟨out, h⟩ := execChunk_framed c
    cases (h s).symm.trans ht
    simp [State.framed]
  | byte b last =>
    obtain ⟨out, h⟩ := execByte_framed b last
    cases (h s).symm.trans ht
    simp [State.framed]
  | ackRes q =>
    cases ht
    obtain ⟨ack, events, e⟩ := resolve_answered s q
    simp [e, State.answered]
  | ackFrm _ _ q code _ =>
    cases ht
    obtain ⟨ack, events, e⟩ := acknowledge_answered s q code
    simp [e, State.answered]
  | route =>
    obtain ⟨p, rest, ack, events, -, rfl⟩ := execRoute_answered ht
    simp [State.answered]
  | reset => exact absurd rfl hreset
  | _ => cases ht; simp

/-! ### What an operation depends on -/

/-- `ROUTE` commutes with a change of the state that it does not see: one that keeps the parameters and the queue, and
commutes with the updates that the router makes. -/
theorem execRoute_comm {g : State → State} (hcfg : ∀ s, (g s).cfg = s.cfg) (hfrmQ : ∀ s, (g s).frmQ = s.frmQ)
    (hqueue : ∀ s q, g (s.setQueue q) = (g s).setQueue q)
    (hack : ∀ s q code, g (s.acknowledge q code) = (g s).acknowledge q code)
    (hfwd : ∀ s p, g (s.emit (.fwd p)) = (g s).emit (.fwd p))
    (hlog : ∀ s, g (s.emit .logLengthMismatch) = (g s).emit .logLengthMismatch) (s : State) :
    execRoute (g s) = mapNext g (execRoute s) := by
  have hframe : ∀ p s, routeFrame p (g s) = mapNext g (routeFrame p s) := by
    intro p s
    simp only [routeFrame, hcfg]
    split
    · split
      · split
        · split <;> simp [mapNext, hack]
        · simp [mapNext, hfwd]
      · rfl
    · simp [mapNext, hlog]
  cases hq : s.frmQ with
  | nil => simp [execRoute, hfrmQ, hq, mapNext]
  | cons p rest => rw [execRoute_cons s hq, execRoute_cons (g s) ((hfrmQ s).trans hq), ← hqueue, hframe]

theorem resolve_withCounter (v : SeqNum) (s : State) (q : SeqNum) :
    { s.resolve q with seqCtr := v } = State.resolve q { s with seqCtr := v } := by
  obtain ⟨h, e⟩ | ⟨tag, h, e⟩ := resolve_cases s q <;> rw [e]
  · exact (resolve_empty { s with seqCtr := v } q h).symm
  · exact (resolve_filled { s with seqCtr := v } q h).symm

theorem acknowledge_withCounter (v : SeqNum) (s : State) (q : SeqNum) (code : Byte) :
    { s.acknowledge q code with seqCtr := v } = State.acknowledge q code { s with seqCtr := v } :=
  congrArg (State.emit (.response q code)) (resolve_withCounter v s q)

/-- No operation but `SEQNEXT` and `RESET` reads or writes the counter (R31). -/
theorem exec_withCounter {i : Instr} (hseq : i ≠ .seqNext) (hreset : i ≠ .reset) (v : SeqNum) (s : State) :
    exec i { s with seqCtr := v } = mapNext (fun t => { t with seqCtr := v }) (exec i s) := by
  cases i with
  | chunk c =>
    obtain ⟨out, h⟩ := execChunk_framed c
    simp only [exec, h]
    rfl
  | byte b last =>
    obtain ⟨out, h⟩ := execByte_framed b last
    simp only [exec, h]
    rfl
  | ackRes q => exact congrArg Host.Outcome.next (resolve_withCounter v s q).symm
  | ackFrm _ _ q code _ => exact congrArg Host.Outcome.next (acknowledge_withCounter v s q code).symm
  | route =>
    exact execRoute_comm (g := fun t => { t with seqCtr := v }) (fun _ => rfl) (fun _ => rfl) (fun _ _ => rfl)
      (acknowledge_withCounter v) (fun _ _ => rfl) (fun _ => rfl) s
  | seqNext => exact absurd rfl hseq
  | reset => exact absurd rfl hreset
  | _ => rfl

/-- Settles O32: the counter is not seen by the other operations, and `SEQNEXT` advances it. -/
theorem counterIsSeenOnlyBySeqNext : Obligations.CounterIsSeenOnlyBySeqNext := by
  refine ⟨fun i v s hseq hreset => exec_withCounter hseq hreset v s, fun _ _ => rfl, fun s => ?_⟩
  have hctr : (s.advanceCounter.emit (.seq s.seqCtr)).seqCtr.toNat = (s.seqCtr.toNat + 1) % s.cfg.seqMod :=
    advanceCounter_toNat s
  exact ⟨_, rfl, hctr, fun hmod => by rw [hctr, hmod]⟩

theorem renameTags_acknowledge (f : Tag → Tag) (s : State) (q : SeqNum) (code : Byte) :
    (s.acknowledge q code).renameTags f = (s.renameTags f).acknowledge q code := by
  rw [State.acknowledge, renameTags_emit, ← renameTags_resolve]
  rfl

theorem renameTags_resetOf (f : Tag → Tag) (cfg : Config) :
    (State.resetOf cfg).renameTags f = State.resetOf cfg := by
  simp [State.renameTags, State.resetOf, Table.empty]

/-- Settles O57: each update that an operation is made of commutes with renaming. -/
theorem tagsAreNeverInterpreted : Obligations.TagsAreNeverInterpreted := by
  intro f i s
  cases i with
  | chunk c =>
    obtain ⟨out, h⟩ := execChunk_framed c
    simp only [renameTagOperand, exec, h, mapNext, renameTags_framed]
    rfl
  | byte b last =>
    obtain ⟨out, h⟩ := execByte_framed b last
    simp [renameTagOperand, exec, h, mapNext, State.renameTags, State.framed, Event.renameTag]
  | seqNext => exact congrArg Host.Outcome.next (renameTags_emit f s.advanceCounter (.seq s.seqCtr)).symm
  | ackReg q tag => exact congrArg Host.Outcome.next (renameTags_setSlot f s q (some tag)).symm
  | ackRes q => exact congrArg Host.Outcome.next (renameTags_resolve f s q)
  | ackRel q => exact congrArg Host.Outcome.next (renameTags_setSlot f s q none).symm
  | oprsv6 => exact congrArg Host.Outcome.next (renameTags_emit f s (.operr 6)).symm
  | oprsv7 => exact congrArg Host.Outcome.next (renameTags_emit f s (.operr 7)).symm
  | route =>
    exact execRoute_comm (g := State.renameTags f) (fun _ => rfl) (fun _ => rfl) (fun _ _ => rfl)
      (renameTags_acknowledge f) (fun s p => renameTags_emit f s (.fwd p))
      (fun s => renameTags_emit f s .logLengthMismatch) s
  | ackFrm _ _ q code _ => exact congrArg Host.Outcome.next (renameTags_acknowledge f s q code).symm
  | fwdFrm p => exact congrArg Host.Outcome.next (renameTags_emit f s (.fwd p)).symm
  | reset =>
    exact congrArg (fun t : State => Host.Outcome.next { t with inputs := s.inputs })
      (renameTags_resetOf f s.cfg).symm
  | _ => rfl

end Sys2Proof.Machine
end

section
/-! The queue between the Framer and the router (R36, R62). -/

namespace Sys2Proof.Machine

/-- Settles O58: the router takes the head, the Framer's two operations append what they frame, and no other operation
writes the queue (R20). -/
theorem frameQueueIsFirstInFirstOut : Obligations.FrameQueueIsFirstInFirstOut := by
  intro i s t ht hreset
  refine ⟨?taken, fun hroute => ?kept⟩
  case taken =>
    rintro rfl
    obtain ⟨p, rest, ack, events, hq, rfl⟩ := execRoute_answered ht
    exact ⟨p, hq⟩
  case kept =>
    obtain ⟨-, -, -, hunwritten, -⟩ := elementsAreWrittenOnlyByTheirWriters i s t ht hreset
    cases i with
    | chunk c =>
      obtain ⟨out, h⟩ := execChunk_framed c
      cases (h s).symm.trans ht
      exact ⟨_, rfl⟩
    | byte b last =>
      obtain ⟨out, h⟩ := execByte_framed b last
      cases (h s).symm.trans ht
      exact ⟨_, rfl⟩
    | route => exact absurd rfl hroute
    | _ => exact ⟨[], by simpa using hunwritten⟩

end Sys2Proof.Machine
end

section
/-! The decoder and the encoder: every well-formed operation is read back (R83, R85, R93), what is read is well formed,
the runs of transfers that are chunks (R83), and the ranges of the length-byte rows (R77). -/

namespace Sys2Proof

variable {cfg : Config} {i : Instr}

/-- Every operation has its round trip, one lemma for each constructor (R83, R85, R93). -/
theorem roundTrip : ∀ i : Instr, Laws.RoundTrip.Statement i
  | .chunk c => Laws.RoundTrip.chunk c
  | .byte b last => Laws.RoundTrip.byte b last
  | .lenOk04 len => Laws.RoundTrip.lenOk04 len
  | .lenOk08 len => Laws.RoundTrip.lenOk08 len
  | .lenOk10 len => Laws.RoundTrip.lenOk10 len
  | .lenOk20 len => Laws.RoundTrip.lenOk20 len
  | .lenOk24 len => Laws.RoundTrip.lenOk24 len
  | .lenBad00 len => Laws.RoundTrip.lenBad00 len
  | .lenBad25 len => Laws.RoundTrip.lenBad25 len
  | .lenBad26 len => Laws.RoundTrip.lenBad26 len
  | .lenBad28 len => Laws.RoundTrip.lenBad28 len
  | .lenBad30 len => Laws.RoundTrip.lenBad30 len
  | .lenBad40 len => Laws.RoundTrip.lenBad40 len
  | .lenBad80 len => Laws.RoundTrip.lenBad80 len
  | .lenNone => Laws.RoundTrip.lenNone
  | .seqNext => Laws.RoundTrip.seqNext
  | .ackReg seq tag => Laws.RoundTrip.ackReg seq tag
  | .ackRes seq => Laws.RoundTrip.ackRes seq
  | .ackRel seq => Laws.RoundTrip.ackRel seq
  | .rxEn => Laws.RoundTrip.rxEn
  | .rxDis => Laws.RoundTrip.rxDis
  | .oprsv6 => Laws.RoundTrip.oprsv6
  | .oprsv7 => Laws.RoundTrip.oprsv7
  | .route => Laws.RoundTrip.route
  | .ackFrm len subtype seq code more => Laws.RoundTrip.ackFrm len subtype seq code more
  | .fwdFrm p => Laws.RoundTrip.fwdFrm p
  | .reset => Laws.RoundTrip.reset

/-- Settles O3, by the round trip of each operation. -/
theorem decodeInvertsEncode : Obligations.DecodeInvertsEncode := fun cfg i => roundTrip i cfg

/-! ### What each decoder reads -/

theorem decode_rxc_eq_ok_iff {run : List RxTransfer} :
    decode cfg (.rxc run) = .ok i ↔ ∃ c, decodeRun run = .ok c ∧ i = .chunk c := by
  cases h : decodeRun run <;> simp [decode, h, eq_comm]

theorem decode_lb_eq_ok_iff {b : Byte} : decode cfg (.lb b) = .ok i ↔ decodeLength b = some i := by
  cases h : decodeLength b <;> simp [decode, h]

theorem decode_op_eq_ok_iff {w : CommandWord} :
    decode cfg (.op w) = .ok i ↔ w.tag.fits cfg = true ∧ i = decodeCommand w := by
  cases h : w.tag.fits cfg <;> simp [decode, h, eq_comm]

theorem decode_rst_eq_ok_iff {r : BitVec 1} : decode cfg (.rst r) = .ok i ↔ r = 1 ∧ i = .reset := by
  simp only [decode]
  split_ifs with h
  · simp [h, eq_comm]
  · exact iff_of_false (by simp) fun hr => h hr.1

/-- R77: the operation of a length-byte row is well formed if its byte matches the row, and stands for that byte. -/
theorem lengthRow_wf_encode (cfg : Config) (b : Byte) : ∀ row ∈ lengthRows,
    (row.make b).wf cfg = maskMatch row.mask row.value b ∧ encode cfg (row.make b) = .lb b := by
  simp [lengthRows, Instr.wf, encode]

theorem decodeLength_wf_encode {b : Byte} (h : decodeLength b = some i) :
    i.wf cfg = true ∧ encode cfg i = .lb b := by
  obtain ⟨row, hm, hmatch, rfl⟩ := decodeLength_row h
  obtain ⟨hwf, hencode⟩ := lengthRow_wf_encode cfg b row hm
  exact ⟨hwf.trans hmatch, hencode⟩

theorem decodeFrame_wf_encode {p : Frame} (h : decodeFrame cfg p = .ok i) :
    i.wf cfg = true ∧ encode cfg i = .ft p := by
  obtain ⟨_, _, _, _, _, rfl, hsize, rfl⟩ | ⟨_, _, _, rfl, hsize, htype, rfl⟩ := decodeFrame_cases h
  · exact ⟨by simpa [Instr.wf] using hsize, rfl⟩
  · exact ⟨by simpa [Instr.wf] using ⟨hsize, htype⟩, rfl⟩

/-- D7: the eight command codes. -/
theorem op_cases : ∀ op : BitVec 3,
    op = 0 ∨ op = 1 ∨ op = 2 ∨ op = 3 ∨ op = 4 ∨ op = 5 ∨ op = 6 ∨ op = 7 := by decide

theorem decodeCommand_wf {w : CommandWord} (h : w.tag.fits cfg = true) : (decodeCommand w).wf cfg = true := by
  unfold decodeCommand
  split
  case h_2 => exact h
  all_goals rfl

/-- R84, R85: a command is given back with its `op` and the fields its operation uses; the others are 0. -/
theorem encode_decodeCommand (cfg : Config) (w : CommandWord) :
    ∃ seq tag, encode cfg (decodeCommand w) = .op ⟨w.op, seq, tag⟩ ∧
      (w.op = 1 ∨ w.op = 2 ∨ w.op = 3 → seq = w.seq) ∧ (w.op = 1 → tag = w.tag) ∧
      (w.op ≠ 1 ∧ w.op ≠ 2 ∧ w.op ≠ 3 → seq = 0) ∧ (w.op ≠ 1 → tag = ⟨0⟩) := by
  obtain ⟨op, seq, tag⟩ := w
  obtain rfl | rfl | rfl | rfl | rfl | rfl | rfl | rfl := op_cases op <;>
    exact ⟨_, _, rfl, by simp, by simp, by simp, by simp⟩

/-- What is read outside the command port is well formed and stands for the form it was read from. -/
theorem decode_wf_encode {e : Encoded} (hop : ∀ w, e ≠ .op w) (h : decode cfg e = .ok i) :
    i.wf cfg = true ∧ encode cfg i = e := by
  cases e with
  | rxc run =>
    obtain ⟨c, hc, rfl⟩ := decode_rxc_eq_ok_iff.1 h
    exact ⟨rfl, congrArg Encoded.rxc (chunkRun_of_decodeRun hc)⟩
  | rxb t => cases h; exact ⟨rfl, congrArg Encoded.rxb (transferOf_data_last t)⟩
  | lb b => exact decodeLength_wf_encode (decode_lb_eq_ok_iff.1 h)
  | lbe => cases h; exact ⟨rfl, rfl⟩
  | op w => exact absurd rfl (hop w)
  | int => cases h; exact ⟨rfl, rfl⟩
  | ft p => exact decodeFrame_wf_encode h
  | rst r => obtain ⟨rfl, rfl⟩ := decode_rst_eq_ok_iff.1 h; exact ⟨rfl, rfl⟩

/-- Settles O4: a command word gives back the fields its operation uses, any other form is given back whole. -/
theorem decodedOperationsAreWellFormed : Obligations.DecodedOperationsAreWellFormed := by
  intro cfg e i h
  by_cases hop : ∃ w, e = .op w
  · obtain ⟨w, rfl⟩ := hop
    obtain ⟨hfits, rfl⟩ := decode_op_eq_ok_iff.1 h
    refine ⟨decodeCommand_wf hfits, fun hop => absurd rfl (hop w), ?_⟩
    rintro _ ⟨⟩
    exact encode_decodeCommand cfg w
  · have hop' : ∀ w, e ≠ .op w := not_exists.1 hop
    obtain ⟨hwf, hencode⟩ := decode_wf_encode hop' h
    exact ⟨hwf, fun _ => hencode, fun w hw => absurd hw (hop' w)⟩

/-! ### Runs of transfers -/

/-- One transfer more before a run that has one: it must not be the last (R83). -/
theorem decodeRun_cons_cons_eq_ok_iff {t u : RxTransfer} {rest : List RxTransfer} {c : List Byte} :
    decodeRun (t :: u :: rest) = .ok c ↔
      RxTransfer.last t = false ∧ ∃ c', decodeRun (u :: rest) = .ok c' ∧ c = RxTransfer.data t :: c' := by
  cases hl : RxTransfer.last t <;> cases h : decodeRun (u :: rest) <;> simp [decodeRun, hl, h, eq_comm (a := c)]

/-- A claim about the elements of a list by their places, split into the first and the others. -/
theorem forall_getElem_cons {α : Type} {a : α} {l : List α} (P : Nat → α → Prop) :
    (∀ (k : Nat) (h : k < (a :: l).length), P k (a :: l)[k]) ↔
      P 0 a ∧ ∀ (k : Nat) (h : k < l.length), P (k + 1) l[k] where
  mp h := ⟨h 0 (Nat.zero_lt_succ _), fun k hk => h (k + 1) (Nat.succ_lt_succ hk)⟩
  mpr h := fun
    | 0, _ => h.1
    | k + 1, hk => h.2 k (Nat.lt_of_succ_lt_succ hk)

theorem decodeRun_eq_ok_iff (run : List RxTransfer) (c : List Byte) :
    decodeRun run = .ok c ↔ c = run.map RxTransfer.data ∧
      ∀ (k : Nat) (h : k < run.length), RxTransfer.last run[k] = decide (k + 1 = run.length) := by
  induction run generalizing c with
  | nil => simp [decodeRun]
  | cons t rest ih =>
    rw [forall_getElem_cons fun k u => RxTransfer.last u = decide (k + 1 = (t :: rest).length)]
    cases rest with
    | nil => cases hl : RxTransfer.last t <;> simp [decodeRun, hl, eq_comm (a := c)]
    | cons u rest =>
      rw [decodeRun_cons_cons_eq_ok_iff]
      simp [ih, and_comm, and_left_comm]

/-- Settles O5, by the chunk that the run decodes to. -/
theorem runIsAChunkExactlyWhenItsLastTransferEndsIt : Obligations.RunIsAChunkExactlyWhenItsLastTransferEndsIt := by
  intro cfg run c
  rw [← decodeRun_eq_ok_iff, decode_rxc_eq_ok_iff]
  simp

/-! ### The rows of the length-byte table -/

/-- R77: the bytes of a row are those from its value up to its value with every free bit set. -/
theorem decodeLength_eq_iff_of_mem : ∀ row ∈ lengthRows, ∀ b : Byte,
    decodeLength b = some (row.make b) ↔
      row.value.toNat ≤ b.toNat ∧ b.toNat ≤ (row.value ||| ~~~row.mask).toNat := by decide

/-- R77: every byte matches one row. -/
theorem lengthRows_disjoint : ∀ b : Byte,
    (lengthRows.filter fun row => maskMatch row.mask row.value b).length = 1 := by decide

/-- Settles O2, each row by its range. -/
theorem lengthRowsPartitionTheBytes : Obligations.LengthRowsPartitionTheBytes := by
  intro b
  have rows := fun row hm => decodeLength_eq_iff_of_mem row hm b
  simp only [lengthRows, List.cons_append, List.nil_append, List.forall_mem_cons, BitVec.reduceToNat,
    BitVec.reduceNot, BitVec.reduceOr] at rows
  obtain ⟨bad00, ok04, ok08, ok10, ok20, ok24, bad25, bad26, bad28, bad30, bad40, bad80, -⟩ := rows
  simp only [bad00, ok04, ok08, ok10, ok20, ok24, bad25, bad26, bad28, bad30, bad40, bad80, lengthRows_disjoint,
    true_and]
  omega

/-- Settles O1: each word is closed, and the decoder computes its operation. -/
theorem specWordsDecodeToTheirOperations : Obligations.SpecWordsDecodeToTheirOperations :=
  ⟨rfl, rfl, rfl, rfl, rfl, rfl, rfl, rfl, rfl, rfl, rfl, rfl, rfl, rfl⟩

end Sys2Proof
end

section
/-! The inner cases of `CHUNK` and `ROUTE` (R86): the loop and the router execute the row that the head of the buffer or
of the queue decodes to, the model's two requests that present such a case by itself, and a bare table word placed as
the next request (log entries 8, 9). -/

namespace Sys2Proof.Machine

variable {s : State} {i : Instr}

/-! ### The frame rows -/

/-- R163: the router executes the row that the frame it has taken decodes to. -/
theorem routeFrame_of_decodeFrame {p : Frame} (h : decodeFrame s.cfg p = .ok i) : routeFrame p s = exec i s := by
  obtain ⟨len, _, _, _, _, rfl, hsize, rfl⟩ | ⟨len, _, _, rfl, hsize, htype, rfl⟩ := decodeFrame_cases h
  · exact routeFrame_ack s ((sizeOk_cons len _).2 hsize) rfl
  · exact routeFrame_forward s ((sizeOk_cons len _).2 hsize) htype

/-- Settles O45, the rest of the queue being what `ROUTE` leaves. -/
theorem routeExecutesTheFrameRow : Obligations.RouteExecutesTheFrameRow := by
  intro s p rest i hq hd
  have hroute : exec .route s = routeFrame p (s.setQueue rest) := execRoute_cons s hq
  rw [hroute, routeFrame_of_decodeFrame (s := s.setQueue rest) hd]
  rfl

/-- R37, R78: a well-formed frame has a row. -/
theorem decodeFrame_of_frameOk {cfg : Config} {p : Frame} (h : frameOk cfg p = true) :
    ∃ i, decodeFrame cfg p = .ok i := by
  obtain ⟨len, body, rfl, hlen, hbody⟩ := (frameOk_iff cfg p).1 h
  have hlong : 4 ≤ body.length := hbody ▸ four_le_of_lengthOk hlen
  match body with
  | [] | [_] | [_, _] | [_, _, _] => simp at hlong
  | type :: subtype :: seq :: code :: more =>
    by_cases ht : type = cfg.ackType
    · exact ⟨.ackFrm len subtype seq code more, by simp [decodeFrame, ← hbody, ht]⟩
    · exact ⟨.fwdFrm (len :: type :: subtype :: seq :: code :: more), by simp [decodeFrame, ← hbody, ht]⟩

/-! ### The length-byte rows -/

/-- Settles O20: the pass that finds a byte in range, out of range, or none. -/
theorem chunkLoopExecutesTheLengthRow : Obligations.ChunkLoopExecutesTheLengthRow := by
  intro n s t i hc hreq
  have hlen : s.cfg.lenMin = 4 ∧ s.cfg.lenMax = 36 := by simpa [Config.sourceLengths] using hc
  refine ⟨fun b body hb hd ht => ?head, fun hb hd ht => ?empty⟩
  case head =>
    obtain ⟨hok, hexec⟩ | ⟨hbad, hexec⟩ := decodeLength_exec hc (decode_lb_eq_ok_iff.1 hd) <;>
      cases (hexec _).symm.trans ht
    · have hrange := (lengthOk_iff _ _).1 hok
      exact ⟨fun _ => chunkLoop_lengthOk hreq hb hok n, fun _ => by omega⟩
    · have hrange := (lengthOk_eq_false_iff _ _).1 hbad
      exact ⟨fun _ => by omega, fun _ => chunkLoop_lengthBad hreq hb hbad n⟩
  case empty =>
    cases hd
    cases ht
    exact chunkLoop_nothing hreq hb n

/-! ### The model's own requests -/

/-- A turn in which there is nothing to execute is passed over (R251). -/
theorem step_of_nothing_presented {r : Request} {rest : List Request} (hin : s.inputs = r :: rest)
    (hp : presented r { s with inputs := rest } = none) : step s = .next { s with inputs := rest } := by
  simp [step, fetch_of_request hin, hp, idleNext, hin]

/-- R24: in IDLE a desync changes nothing. -/
theorem desync_idle (hr : s.req = 0) (hb : s.buf = []) : s.desync = s := by
  rw [State.desync, ← hr, ← hb]

/-- R25: at rest the byte at the head of the buffer is in range, and its row has been executed. -/
theorem exec_lengthRow_atRest {b : Byte} {body : List Byte} (hc : s.cfg.sourceLengths = true)
    (hrest : s.atRest = true) (hb : s.buf = b :: body) (hd : decodeLength b = some i) : exec i s = .next s := by
  obtain ⟨-, hexec⟩ | ⟨hbad, -⟩ := decodeLength_exec hc hd
  · rw [hexec, startFrame_head hrest hb]
  · obtain ⟨-, hb'⟩ | ⟨d, _, hb', hok, -, -⟩ := atRest_cases hrest
    · simp [hb] at hb'
    · obtain ⟨rfl, -⟩ := List.cons.inj (hb.symm.trans hb')
      simp [hok] at hbad

theorem step_inspection_atRest {rest : List Request} (hc : s.cfg.sourceLengths = true) (hrest : s.atRest = true)
    (hin : s.inputs = .inspection :: rest) : step s = .next { s with inputs := rest } := by
  obtain ⟨hr, hb⟩ | ⟨b, body, hb, -⟩ := atRest_cases hrest
  · rw [step_of_request hin (presented_inspection_nil hb) rfl]
    exact congrArg Host.Outcome.next (desync_idle (s := { s with inputs := rest }) hr hb)
  · obtain ⟨i, hrow⟩ := Option.isSome_iff_exists.1 (decodeLength_isSome b)
    rw [step_of_request hin (presented_inspection_cons hb) (decode_lb_eq_ok_iff.2 hrow)]
    exact exec_lengthRow_atRest (s := { s with inputs := rest }) hc hrest hb hrow

theorem step_frameInHand_eq_routerTurn {rest : List Request} (hqueue : s.queueOk = true)
    (hin : s.inputs = .frameInHand :: rest) : step s = step { s with inputs := .routerTurn :: rest } := by
  by_cases hq : s.frmQ = []
  · rw [step_of_nothing_presented hin (by simp [presented, hq]),
      step_of_nothing_presented (r := .routerTurn) rfl (by simp [presented, routerForm, hq])]
  · obtain ⟨p, queue, hcons⟩ := List.exists_cons_of_ne_nil hq
    obtain ⟨i, hd⟩ := decodeFrame_of_frameOk ((queueOk_iff s).1 hqueue p (by simp [hcons]))
    have hturn : step { s with inputs := .routerTurn :: rest } = exec .route { s with inputs := rest } :=
      step_of_request rfl (presented_routerTurn hq) rfl
    rw [hturn, step_of_request hin (presented_frameInHand hcons) hd]
    exact (routeExecutesTheFrameRow { s with inputs := rest } p queue i hcons hd).symm

/-- Settles O9, by the rest and the queue invariant. -/
theorem innerCasesAloneAddNoBehaviour : Obligations.InnerCasesAloneAddNoBehaviour := by
  intro s rest h
  obtain ⟨hrest, hqueue, -⟩ := (inv_iff s).1 h
  exact ⟨fun hc => step_inspection_atRest hc hrest, step_frameInHand_eq_routerTurn hqueue⟩

/-! ### Bare table words -/

/-- Log entry 8: the reading of a bare table word that decodes to an operation is an empty chunk, a command word with
zero fields, the length byte `w`, or a transfer. -/
theorem decodeTableWord_cases {nbits w : Nat} (h : decodeTableWord nbits w = some i) :
    decode Config.atReset (tableWordContext nbits w) = .ok i ∧
      (tableWordContext nbits w = .rxc [] ∨ (∃ op, tableWordContext nbits w = .op ⟨op, 0, ⟨0⟩⟩) ∨
        tableWordContext nbits w = .lb (BitVec.ofNat 8 w) ∨ ∃ t, tableWordContext nbits w = .rxb t) := by
  have hd : decode Config.atReset (tableWordContext nbits w) = .ok i := by
    unfold decodeTableWord at h
    split at h <;> cases h
    assumption
  refine ⟨hd, ?_⟩
  unfold tableWordContext at hd ⊢
  split_ifs at hd ⊢
  · exact .inl rfl
  · exact .inr (.inl ⟨_, rfl⟩)
  · exact .inr (.inr (.inl rfl))
  · cases hd
  · exact .inr (.inr (.inr ⟨_, rfl⟩))
  · cases hd

/-- Settles O8: what each reading of the word places, and what the next step decodes. -/
theorem placedTableWordIsExecutedNext : Obligations.PlacedTableWordIsExecutedNext := by
  intro s nbits w i h
  obtain ⟨hd, e | ⟨op, e⟩ | e | ⟨t, e⟩⟩ := decodeTableWord_cases h <;> rw [e] at hd <;>
    simp only [State.withFetchWord, e]
  · cases hd
    exact .inl (step_of_request rfl rfl rfl)
  · obtain ⟨-, rfl⟩ := decode_op_eq_ok_iff.1 hd
    exact .inl (step_of_request rfl rfl (Laws.decode_op (Laws.zero_fits s.cfg)))
  · have hrow := decode_lb_eq_ok_iff.1 hd
    exact .inr ⟨(decodeLength_wf_encode hrow).2, step_of_request rfl rfl (decode_lb_eq_ok_iff.2 hrow)⟩
  · cases hd
    exact .inl (step_of_request rfl rfl rfl)

end Sys2Proof.Machine
end

section
/-! The formats that stand beside the machine (R72, R73). -/

namespace Sys2Proof.Machine

/-- R72: up to 251 payload bytes the length byte of a command does not wrap. -/
theorem Command.lengthByte_toNat {c : Command} (h : c.fits = true) :
    (BitVec.ofNat 8 (4 + c.payload.length)).toNat = 4 + c.payload.length := by
  have hn : c.payload.length ≤ 251 := of_decide_eq_true h
  simp only [BitVec.toNat_ofNat]
  omega

/-- R73: an acknowledgement is a frame of the Framer where 4 is a legal length byte. -/
theorem frameOk_ackBytes {cfg : Config} (hmin : cfg.lenMin ≤ 4) (hmax : 4 ≤ cfg.lenMax) (seq : SeqNum) (code : Byte) :
    frameOk cfg (ackBytes cfg.ackType seq code) = true :=
  (frameOk_iff _ _).2 ⟨_, _, rfl, (lengthOk_iff cfg 4).2 ⟨hmin, hmax⟩, rfl⟩

/-- Settles O48, by the bytes of the two formats. -/
theorem sequenceNumberStandsAtOffsetThree : Obligations.SequenceNumberStandsAtOffsetThree :=
  ⟨fun _ => ⟨rfl, rfl, fun hfits => ⟨_, rfl, Command.lengthByte_toNat hfits⟩⟩,
    fun _ seq code => ⟨rfl, fun hmin hmax => frameOk_ackBytes hmin hmax seq code⟩⟩

end Sys2Proof.Machine
end

section
/-! `CHUNK` and its loop (R102 to R109): the gate, the loop as the source writes it, how many passes it makes, and what
becomes of the bytes. -/

namespace Sys2Proof.Machine

variable {s t : State}

/-- R102: an open gate lets the chunk through to the loop. -/
theorem exec_chunk_of_open (h : s.rxEn = true) (c : List Byte) : exec (.chunk c) s = .next (s.chunk c) := by
  simp [exec, execChunk, h]

/-- Settles O12: the gate is the first thing `CHUNK` looks at. -/
theorem shutGateDiscardsTheChunk : Obligations.ShutGateDiscardsTheChunk := by
  intro c s h
  simp [exec, execChunk, h]

/-- Settles O18: the five rows are one update of `req`. -/
theorem validLengthRowsStartAFrame : Obligations.ValidLengthRowsStartAFrame :=
  fun _ _ => ⟨rfl, rfl, rfl, rfl, rfl⟩

/-- Settles O19: the seven rows and `LENNONE` are the recovery of X1. -/
theorem invalidLengthRowsDesynchronise : Obligations.InvalidLengthRowsDesynchronise :=
  fun _ _ => ⟨rfl, rfl, rfl, rfl, rfl, rfl, rfl, rfl⟩

/-- Settles O15, by what the Framer writes. -/
theorem chunkWritesOnlyTheFramer : Obligations.ChunkWritesOnlyTheFramer := by
  intro c s
  obtain ⟨out, h⟩ := execChunk_framed c
  exact ⟨_, _, h s, rfl⟩

/-! ### The loop as a relation -/

/-- R105: a pass removes `req` bytes from the buffer. -/
theorem collectFrame_buf_length (s : State) : s.collectFrame.buf.length = s.buf.length - s.req := by
  obtain h | h := Nat.eq_zero_or_pos s.req
  · rw [collectFrame_of_req_zero h, h, Nat.sub_zero]
  · rw [collectFrame_of_req_pos h, State.emitFrame_buf, List.length_drop]

/-- R37, R76: a frame has at least 5 bytes. -/
theorem five_le_reqOfLength {cfg : Config} {b : Byte} (h : lengthOk cfg b = true) : 5 ≤ reqOfLength b :=
  Nat.succ_le_succ (four_le_of_lengthOk h)

/-- The bounded loop follows the loop of R102 if it does so after a pass that goes round again. -/
theorem loopRuns_chunkLoop_succ {n : Nat}
    (hagain : ∀ b, s.req ≤ s.buf.length → lengthOk s.cfg b = true →
      ∃ m, LoopRuns m (s.collectFrame.startFrame b) (chunkLoop n (s.collectFrame.startFrame b))) :
    ∃ m, LoopRuns m s (chunkLoop (n + 1) s) := by
  by_cases hl : s.buf.length < s.req
  · rw [chunkLoop_stop hl]
    exact ⟨0, .stop s hl⟩
  · have hle := Nat.not_lt.1 hl
    cases hb : s.collectFrame.buf with
    | nil =>
      rw [chunkLoop_nothing hle hb]
      exact ⟨1, .nothing s hle hb⟩
    | cons b body =>
      cases hok : lengthOk s.cfg b with
      | false =>
        rw [chunkLoop_lengthBad hle hb hok]
        exact ⟨1, .lengthBad s b body hle hb ((lengthOk_eq_false_iff _ _).1 hok)⟩
      | true =>
        obtain ⟨hmin, hmax⟩ := (lengthOk_iff _ _).1 hok
        obtain ⟨m, hm⟩ := hagain b hle hok
        rw [chunkLoop_lengthOk hle hb hok]
        exact ⟨m + 1, .lengthOk m s _ b body hle hb hmin hmax hm⟩

/-- R109: with a frame of 5 bytes or more in progress `len(buf) / 5` passes suffice. -/
theorem loopRuns_chunkLoop_of_five_le (n : Nat) : ∀ s : State, 5 ≤ s.req → s.buf.length / 5 ≤ n →
    ∃ m, LoopRuns m s (chunkLoop n s) := by
  induction n with
  | zero => exact fun s hr hn => ⟨0, .stop s (by omega)⟩
  | succ n ih =>
    refine fun s hr hn => loopRuns_chunkLoop_succ fun b hle hok => ih _ (five_le_reqOfLength hok) ?_
    rw [State.startFrame_buf, collectFrame_buf_length]
    omega

/-- R109: the bound on the passes suffices in every state, as only the first pass may remove less than 5 bytes. -/
theorem loopRuns_chunkLoop_passBound (s : State) : ∃ m, LoopRuns m s (chunkLoop (passBound s.buf.length) s) := by
  rw [passBound, Nat.add_comm]
  refine loopRuns_chunkLoop_succ fun b _ hok => loopRuns_chunkLoop_of_five_le _ _ (five_le_reqOfLength hok) ?_
  rw [State.startFrame_buf, collectFrame_buf_length]
  exact Nat.div_le_div_right (Nat.sub_le _ _)

/-- R102: an open `CHUNK` is a run of the loop. -/
theorem loopRuns_chunk (c : List Byte) (s : State) : ∃ m, LoopRuns m (s.appendBuf c) (s.chunk c) :=
  loopRuns_chunkLoop_passBound (s.appendBuf c)

/-- The loop is deterministic: any bound that is not below its passes gives the state it ends in. -/
theorem LoopRuns.chunkLoop_eq {n : Nat} (h : LoopRuns n s t) : ∀ k, chunkLoop (n + k) s = t := by
  induction h with
  | stop s hl => exact fun k => chunkLoop_stop hl _
  | lengthOk n s t b body hle hb hmin hmax _ ih =>
    intro k
    rw [Nat.add_right_comm, chunkLoop_lengthOk hle hb ((lengthOk_iff _ _).2 ⟨hmin, hmax⟩)]
    exact ih k
  | lengthBad s b body hle hb hbad =>
    intro k
    rw [Nat.add_comm]
    exact chunkLoop_lengthBad hle hb ((lengthOk_eq_false_iff _ _).2 hbad) k
  | nothing s hle hb =>
    intro k
    rw [Nat.add_comm]
    exact chunkLoop_nothing hle hb k

/-- Settles O13: the bounded loop is a run of the loop of R102, which has no other. -/
theorem chunkRunsTheLoopOfTheSource : Obligations.ChunkRunsTheLoopOfTheSource := by
  intro c s hopen
  obtain ⟨n, hn⟩ := loopRuns_chunk c s
  refine ⟨s.chunk c, n, exec_chunk_of_open hopen c, hn, fun m u hm => ?_⟩
  calc u = chunkLoop (m + n) (s.appendBuf c) := (hm.chunkLoop_eq n).symm
    _ = chunkLoop (n + m) (s.appendBuf c) := by rw [Nat.add_comm]
    _ = s.chunk c := hn.chunkLoop_eq m

/-! ### How many passes it makes -/

/-- R109: with a frame in progress every pass removes 5 bytes or more. -/
theorem LoopRuns.passes_le_of_five_le {n : Nat} (h : LoopRuns n s t) : 5 ≤ s.req → n ≤ s.buf.length / 5 := by
  induction h with
  | stop => exact fun _ => Nat.zero_le _
  | lengthOk n s t b body hle hb hmin hmax _ ih =>
    intro hr
    have hrest : n ≤ s.collectFrame.buf.length / 5 :=
      ih (five_le_reqOfLength ((lengthOk_iff s.cfg b).2 ⟨hmin, hmax⟩))
    rw [collectFrame_buf_length] at hrest
    omega
  | lengthBad | nothing => exact fun _ => by omega

/-- R109: only the first pass may remove less. -/
theorem LoopRuns.passes_le {n : Nat} (h : LoopRuns n s t) : n ≤ 1 + s.buf.length / 5 := by
  cases h with
  | stop => exact Nat.zero_le _
  | lengthOk n _ _ b body hle hb hmin hmax hrun =>
    have hrest : n ≤ s.collectFrame.buf.length / 5 :=
      hrun.passes_le_of_five_le (five_le_reqOfLength ((lengthOk_iff s.cfg b).2 ⟨hmin, hmax⟩))
    rw [collectFrame_buf_length] at hrest
    omega
  | lengthBad | nothing => exact Nat.le_add_right 1 _

/-- Settles O14: the bound holds of every run of the loop, from rest or not. -/
theorem chunkLoopPassesAreBounded : Obligations.ChunkLoopPassesAreBounded :=
  fun _ _ _ _ _ h => h.passes_le

/-! ### What becomes of the bytes -/

/-- R105: what a pass removes from the buffer it emits. -/
theorem collectFrame_conserves (s : State) :
    ∃ frames, s.collectFrame.frmQ = s.frmQ ++ frames ∧ s.buf = frames.flatten ++ s.collectFrame.buf := by
  obtain h | h := Nat.eq_zero_or_pos s.req
  · exact ⟨[], by simp [collectFrame_of_req_zero h]⟩
  · exact ⟨[s.buf.take s.req], by simp [collectFrame_of_req_pos h]⟩

/-- R119: every byte of the buffer is emitted, kept, or discarded by a desync, in order. -/
theorem LoopRuns.conserves {n : Nat} (h : LoopRuns n s t) : ∃ frames dropped,
    t.frmQ = s.frmQ ++ frames ∧ s.buf = frames.flatten ++ t.buf ++ dropped ∧
      (dropped = [] ∨ ∃ b rest, dropped = b :: rest ∧ (b.toNat < s.cfg.lenMin ∨ s.cfg.lenMax < b.toNat) ∧
        t.buf = [] ∧ t.req = 0) := by
  induction h with
  | stop s => exact ⟨[], [], by simp⟩
  | lengthOk n s t b body _ _ _ _ _ ih =>
    obtain ⟨frames, hq, hbuf⟩ := collectFrame_conserves s
    obtain ⟨frames', dropped, hq', hbuf', hdropped⟩ := ih
    have hbuf' : s.collectFrame.buf = frames'.flatten ++ t.buf ++ dropped := hbuf'
    exact ⟨frames ++ frames', dropped, by simp [hq', hq], by rw [hbuf, hbuf']; simp, by simpa using hdropped⟩
  | lengthBad s b body _ hb hbad =>
    obtain ⟨frames, hq, hbuf⟩ := collectFrame_conserves s
    exact ⟨frames, b :: body, hq, by rw [hbuf, hb]; simp, .inr ⟨b, body, rfl, hbad, rfl, rfl⟩⟩
  | nothing s _ hb =>
    obtain ⟨frames, hq, hbuf⟩ := collectFrame_conserves s
    exact ⟨frames, [], hq, by rw [hbuf, hb]; simp, .inl rfl⟩

/-- Settles O17, along the run of the loop. -/
theorem chunkConservesTheBytes : Obligations.ChunkConservesTheBytes := by
  intro c s hopen
  obtain ⟨n, hn⟩ := loopRuns_chunk c s
  obtain ⟨frames, dropped, hconserved⟩ := hn.conserves
  exact ⟨s.chunk c, frames, dropped, exec_chunk_of_open hopen c, hconserved⟩

end Sys2Proof.Machine
end

section
/-! What `CHUNK` frames from rest (R106 to R108, R111, R115 to R120): whole frames are emitted, a piece of one is kept,
and a desync loses the rest of its chunk. -/

namespace Sys2Proof.Machine

variable {s t : State}

/-- R37: a well-formed frame in numbers. -/
theorem frameOk_iff_range (cfg : Config) (p : Frame) : frameOk cfg p = true ↔
    ∃ len body, p = len :: body ∧ cfg.lenMin ≤ len.toNat ∧ len.toNat ≤ cfg.lenMax ∧ p.length = len.toNat + 1 := by
  cases p <;> simp [frameOk, lengthOk_iff, and_assoc]

/-! ### Emitted frames are well formed -/

/-- The Framer is at rest and has appended well-formed frames to the queue `q`. -/
def State.HasQueuedOnto (cfg : Config) (q : List Frame) (s : State) : Prop :=
  s.atRest = true ∧ s.cfg = cfg ∧ ∃ frames, s.frmQ = q ++ frames ∧ ∀ p ∈ frames, frameOk cfg p = true

theorem hasQueuedOnto_self (h : s.atRest = true) : s.HasQueuedOnto s.cfg s.frmQ :=
  ⟨h, rfl, [], by simp⟩

/-- R118: an accepted byte completes at most one frame, a well-formed one. -/
theorem hasQueuedOnto_takeByte {cfg : Config} {q : List Frame} (h : s.HasQueuedOnto cfg q) (b : Byte) :
    (s.takeByte b).HasQueuedOnto cfg q := by
  obtain ⟨hrest, rfl, frames, hq, hframes⟩ := h
  obtain ⟨frames', hq', hframes'⟩ := takeByte_frames hrest b
  refine ⟨takeByte_atRest hrest b, takeByte_cfg s b, frames ++ frames', by simp [hq', hq], ?_⟩
  exact List.forall_mem_append.2 ⟨hframes, hframes'⟩

theorem hasQueuedOnto_latchGate {cfg : Config} {q : List Frame} (h : s.HasQueuedOnto cfg q) :
    s.latchGate.HasQueuedOnto cfg q := by
  unfold State.latchGate; split <;> exact h

theorem execChunk_hasQueuedOnto {c : List Byte} (h : s.atRest = true) (ht : execChunk c s = .next t) :
    t.HasQueuedOnto s.cfg s.frmQ := by
  cases ht
  split
  · exact chunk_induction (P := State.HasQueuedOnto s.cfg s.frmQ) (fun _ h => h.1)
      (fun _ b h => hasQueuedOnto_takeByte h b) c s (hasQueuedOnto_self h)
  · exact hasQueuedOnto_self h

theorem execByte_hasQueuedOnto {b : Byte} {last : Bool} (h : s.atRest = true) (ht : execByte b last s = .next t) :
    t.HasQueuedOnto s.cfg s.frmQ := by
  have hlatched := hasQueuedOnto_latchGate (hasQueuedOnto_self h)
  cases ht
  show State.HasQueuedOnto s.cfg s.frmQ (if _ then s.latchGate.takeByte b else s.latchGate)
  split
  · exact hasQueuedOnto_takeByte hlatched b
  · exact hlatched

/-- Settles O16, for `CHUNK` by its accepted bytes and for `BYTE` by the one it accepts. -/
theorem emittedFramesAreWellFormed : Obligations.EmittedFramesAreWellFormed := by
  intro i s t hrest hi ht
  have hemitted : t.HasQueuedOnto s.cfg s.frmQ := by
    obtain ⟨c, rfl⟩ | ⟨b, last, rfl⟩ := hi
    · exact execChunk_hasQueuedOnto hrest ht
    · exact execByte_hasQueuedOnto hrest ht
  obtain ⟨-, -, frames, hq, hframes⟩ := hemitted
  exact ⟨frames, hq, fun p hp => (frameOk_iff_range _ _).1 (hframes p hp)⟩

/-! ### Whole frames -/

/-- R106: in IDLE a chunk that begins with a length byte in range starts a frame. -/
theorem chunk_of_idle (hr : s.req = 0) (hb : s.buf = []) {b : Byte} (hok : lengthOk s.cfg b = true) (c : List Byte) :
    s.chunk (b :: c) = (s.openFrame b).chunk c := by
  rw [chunk_cons (atRest_idle hr hb) (fun _ => hok), State.takeByte, if_pos hr, if_pos hok]

/-- At rest `CHUNK` does what it would do in IDLE with the bytes held delivered before the chunk. -/
theorem chunk_eq_chunk_of_idle (h : s.atRest = true) (c : List Byte) :
    s.chunk c = (s.framed [] [] 0).chunk (s.buf ++ c) := by
  obtain ⟨hr, hb⟩ | ⟨b, body, hb, hok, hr, -⟩ := atRest_cases h
  · have hidle : s.framed [] [] 0 = s := by simpa only [hb, hr] using framed_self s
    rw [hidle, hb, List.nil_append]
  · have hheld : ((s.framed [] [] 0).openFrame b).appendBuf (body ++ c) = s.appendBuf c := by
      simp [State.framed, State.openFrame, State.appendBuf, reqOfLength, hb, hr]
    rw [hb, List.cons_append, chunk_of_idle (s := s.framed [] [] 0) rfl rfl hok, State.chunk, State.chunk, hheld, hb]
    rfl

/-- R105: a chunk that completes the frame in progress emits it and goes on in IDLE with the rest of its bytes. -/
theorem chunk_of_completed {p c d : List Byte} (hr : s.req = p.length) (hp : p ≠ []) (hd : s.buf ++ d = p ++ c) :
    s.chunk d = (s.framed [p] [] 0).chunk c := by
  obtain ⟨k, hk⟩ : ∃ k, (s.buf ++ d).length / 5 = c.length / 5 + k :=
    Nat.exists_eq_add_of_le (Nat.div_le_div_right (by simp [hd]))
  calc s.chunk d = chunkLoop (c.length / 5 + k + 1) (s.appendBuf d) := by rw [State.chunk, passBound, hk, Nat.add_comm]
    _ = chunkLoop (c.length / 5 + k + 1) ((s.framed [p] [] 0).appendBuf c) :=
      chunkLoop_after_frame (s := s.appendBuf d) hd hr hp _
    _ = chunkLoop (c.length / 5 + 1) ((s.framed [p] [] 0).appendBuf c) := by
      rw [Nat.add_right_comm]
      exact chunkLoop_enough_idle (s := (s.framed [p] [] 0).appendBuf c) rfl (Nat.le_refl _) k
    _ = (s.framed [p] [] 0).chunk c := by rw [State.chunk, passBound, Nat.add_comm]; rfl

theorem chunk_frame_append (hr : s.req = 0) (hb : s.buf = []) {p : Frame} (hp : frameOk s.cfg p = true)
    (c : List Byte) : s.chunk (p ++ c) = (s.framed [p] [] 0).chunk c := by
  obtain ⟨len, body, rfl, hok, hlen⟩ := (frameOk_iff _ _).1 hp
  rw [List.cons_append, chunk_of_idle hr hb hok]
  exact chunk_of_completed (s := s.openFrame len) (by simp [reqOfLength, hlen]) (by simp) rfl

/-- R105: from IDLE whole frames at the head of a chunk are emitted in order, and it goes on in IDLE after them. -/
theorem chunk_flatten_append {frames : List Frame} (c : List Byte) : ∀ {s : State}, s.req = 0 → s.buf = [] →
    (∀ p ∈ frames, frameOk s.cfg p = true) → s.chunk (frames.flatten ++ c) = (s.framed frames [] 0).chunk c := by
  induction frames with
  | nil =>
    intro s hr hb _
    rw [chunk_eq_chunk_of_idle (atRest_idle hr hb), hb]
    rfl
  | cons p frames ih =>
    intro s hr hb hok
    obtain ⟨hp, hframes⟩ := List.forall_mem_cons.1 hok
    rw [List.flatten_cons, List.append_assoc, chunk_frame_append hr hb hp,
      ih (s := s.framed [p] [] 0) rfl rfl hframes, framed_framed]
    rfl

/-- R105: the same from rest, of the bytes held and delivered. -/
theorem chunk_of_flatten {c rest : List Byte} {frames : List Frame} (h : s.atRest = true)
    (hok : ∀ p ∈ frames, frameOk s.cfg p = true) (hbytes : s.buf ++ c = frames.flatten ++ rest) :
    s.chunk c = (s.framed frames [] 0).chunk rest := by
  rw [chunk_eq_chunk_of_idle h, hbytes, chunk_flatten_append (s := s.framed [] [] 0) rest rfl rfl hok, framed_framed]
  rfl

/-! ### What follows them -/

/-- R111: in IDLE a piece of a frame is kept. -/
theorem chunk_piece (hr : s.req = 0) (hb : s.buf = []) {b : Byte} {body : List Byte} (hok : lengthOk s.cfg b = true)
    (hshort : (b :: body).length < b.toNat + 1) :
    s.chunk (b :: body) = s.framed [] (b :: body) (b.toNat + 1) := by
  rw [chunk_of_idle hr hb hok, State.chunk, chunkLoop_stop hshort]
  simp [State.appendBuf, State.openFrame, State.framed, reqOfLength]

theorem chunk_of_frames {c : List Byte} {frames : List Frame} (h : s.atRest = true)
    (hok : ∀ p ∈ frames, frameOk s.cfg p = true) (hbytes : s.buf ++ c = frames.flatten) :
    s.chunk c = s.framed frames [] 0 := by
  rw [chunk_of_flatten h hok (rest := []) (by simpa using hbytes), chunk_nil (atRest_idle rfl rfl)]

theorem chunk_of_frames_piece {b : Byte} {c body : List Byte} {frames : List Frame} (h : s.atRest = true)
    (hok : ∀ p ∈ frames, frameOk s.cfg p = true) (hbytes : s.buf ++ c = frames.flatten ++ b :: body)
    (hb : lengthOk s.cfg b = true) (hshort : (b :: body).length < b.toNat + 1) :
    s.chunk c = s.framed frames (b :: body) (b.toNat + 1) := by
  rw [chunk_of_flatten h hok hbytes, chunk_piece (s := s.framed frames [] 0) rfl rfl hb hshort, framed_framed,
    List.append_nil]

/-- Settles O22, in IDLE after the frames, where the piece is empty or begins a frame. -/
theorem chunkEmitsWholeFramesAndKeepsThePartialOne : Obligations.ChunkEmitsWholeFramesAndKeepsThePartialOne := by
  intro c s frames piece hopen hrest hok hbytes
  rw [exec_chunk_of_open hopen]
  refine ⟨?none, ?kept⟩
  case none =>
    rintro rfl
    exact congrArg Host.Outcome.next (chunk_of_frames hrest hok (by simpa using hbytes))
  case kept =>
    rintro b body rfl hmin hmax hshort
    exact congrArg Host.Outcome.next
      (chunk_of_frames_piece hrest hok hbytes ((lengthOk_iff _ _).2 ⟨hmin, hmax⟩) hshort)

/-- Settles O21, in IDLE after the frames, where the bad byte loses the rest. -/
theorem desyncDiscardsTheRestOfTheChunk : Obligations.DesyncDiscardsTheRestOfTheChunk := by
  intro c s frames b rest hopen hrest hok hbad hbytes
  rw [exec_chunk_of_open hopen, chunk_of_flatten hrest hok hbytes,
    chunk_cons_bad (s := s.framed frames [] 0) rfl rfl ((lengthOk_eq_false_iff _ _).2 hbad)]
  rfl

/-! ### Runs of chunks -/

theorem runOps_cons_of_next {i : Instr} (h : exec i s = .next t) (ops : List Instr) :
    runOps (i :: ops) s = runOps ops t := by
  simp [runOps, h]

/-- Settles O24: the first chunk changes nothing. -/
theorem badFirstByteLosesOnlyItsChunk : Obligations.BadFirstByteLosesOnlyItsChunk := by
  intro b rest c s hopen hr hb hbad
  have hlost : exec (.chunk (b :: rest)) s = .next s := by
    rw [exec_chunk_of_open hopen, chunk_cons_bad hr hb ((lengthOk_eq_false_iff _ _).2 hbad)]
  have hnext := exec_chunk_of_open hopen c
  rw [runOps_cons_of_next hlost, runOps_cons_of_next hnext, hnext]
  rfl

/-- Settles O25: a bad byte before a whole frame discards it in one chunk, and not in two. -/
theorem chunkBoundariesAreObservable : Obligations.ChunkBoundariesAreObservable :=
  ⟨[0x00], [0x04, 0x02, 0x00, 0x05, 0x00], State.reset.setGate true, _, _, inv_resetOf Config.atReset, rfl, rfl,
    by decide⟩

/-- R115: a chunk that brings the bytes held some way through whole packets emits the packets completed and leaves the
Framer at rest with a piece of the next. -/
theorem chunk_within_packets {c more : List Byte} {packets : List Frame} (h : s.atRest = true)
    (hok : ∀ p ∈ packets, frameOk s.cfg p = true) (hbytes : (s.buf ++ c) ++ more = packets.flatten) :
    ∃ done left piece req, packets = done ++ left ∧ s.chunk c = s.framed done piece req ∧
      (s.framed done piece req).atRest = true ∧ piece ++ more = left.flatten := by
  obtain ⟨done, left, rfl, hdone, hmore⟩ | ⟨done, piece, d, ds, left, rfl, hdone, hmore⟩ :=
    List.append_eq_flatten_iff.1 hbytes
  · obtain ⟨hok, -⟩ := List.forall_mem_append.1 hok
    exact ⟨done, left, [], 0, rfl, chunk_of_frames h hok hdone, atRest_idle rfl rfl, hmore⟩
  · obtain ⟨hdoneOk, hleft⟩ := List.forall_mem_append.1 hok
    obtain ⟨hcut, -⟩ := List.forall_mem_cons.1 hleft
    have hsplit : piece ++ more = ((piece ++ d :: ds) :: left).flatten := by simp [hmore]
    cases piece with
    | nil => exact ⟨done, _, [], 0, rfl, chunk_of_frames h hdoneOk (by simpa using hdone), atRest_idle rfl rfl, hsplit⟩
    | cons b body =>
      obtain ⟨_, _, hp, hlen, hbody⟩ := (frameOk_iff _ _).1 hcut
      rw [List.cons_append] at hp
      obtain ⟨rfl, rfl⟩ := List.cons.inj hp
      have hshort : (b :: body).length < b.toNat + 1 := by
        simp only [List.length_append, List.length_cons] at hbody ⊢; omega
      exact ⟨done, _, b :: body, b.toNat + 1, rfl, chunk_of_frames_piece h hdoneOk hdone hlen hshort,
        atRest_collect rfl hlen rfl hshort, hsplit⟩

/-- R115, from rest: the bytes held begin the first packet. -/
theorem runOps_chunks_of_packets {chunks : List (List Byte)} : ∀ {packets : List Frame} {s : State}, s.rxEn = true →
    s.atRest = true → (∀ p ∈ packets, frameOk s.cfg p = true) → s.buf ++ chunks.flatten = packets.flatten →
    runOps (chunks.map .chunk) s = .next (s.framed packets [] 0) := by
  induction chunks with
  | nil =>
    intro packets s _ hrest hok hbytes
    exact congrArg Host.Outcome.next ((chunk_nil hrest).symm.trans (chunk_of_frames hrest hok hbytes))
  | cons c chunks ih =>
    intro packets s hopen hrest hok hbytes
    obtain ⟨done, left, piece, req, rfl, hchunk, hrest', hleft⟩ :=
      chunk_within_packets hrest hok (c := c) (more := chunks.flatten) (by simpa using hbytes)
    obtain ⟨-, hok'⟩ := List.forall_mem_append.1 hok
    have hnext : exec (.chunk c) s = .next (s.framed done piece req) := by rw [exec_chunk_of_open hopen, hchunk]
    rw [List.map_cons, runOps_cons_of_next hnext, ih (s := s.framed done piece req) hopen hrest' hok' hleft,
      framed_framed]

/-- Settles O23: IDLE is at rest with no byte held. -/
theorem splitInvariance : Obligations.SplitInvariance := by
  intro packets chunks s hpackets hcut hopen hr hb
  have hok : ∀ p ∈ packets, frameOk s.cfg p = true := fun p hp => (frameOk_iff_range _ _).2 (hpackets p hp)
  have hrun := runOps_chunks_of_packets hopen (atRest_idle hr hb) hok (chunks := chunks) (by rw [hb, hcut]; rfl)
  rw [hrun, State.framed, ← hb, ← hr]

end Sys2Proof.Machine
end

section
/-! The byte-serial refinement (R112 to R114): what one transfer does, by the gate latched for its chunk and the phase,
and that the transfers of a chunk together do what `CHUNK` does. -/

namespace Sys2Proof.Machine

variable {s : State} {b : Byte}

/-! ### An accepted byte -/

theorem takeByte_lengthOk (hr : s.req = 0) (hok : lengthOk s.cfg b = true) : s.takeByte b = s.openFrame b := by
  rw [State.takeByte, if_pos hr, if_pos hok]

theorem takeByte_lengthBad (hr : s.req = 0) (hbad : lengthOk s.cfg b = false) : s.takeByte b = s.startSkip := by
  simp [State.takeByte, hr, hbad]

theorem takeByte_collect (hr : s.req ≠ 0) (hmore : s.buf.length + 1 ≠ s.req) : s.takeByte b = s.appendBuf [b] := by
  rw [State.takeByte, if_neg hr, if_neg hmore]

theorem takeByte_complete (hr : s.req ≠ 0) (hend : s.buf.length + 1 = s.req) :
    s.takeByte b = (s.appendBuf [b]).closeFrame := by
  rw [State.takeByte, if_neg hr, if_pos hend]

/-! ### The bits of the refinement -/

/-- The three bits of the byte-serial refinement as given (R27, R28, R112). -/
def State.withBits (live skip first : Bool) (s : State) : State :=
  { s with live := live, skip := skip, first := first }

/-- R112: the latched gate is sampled on the first transfer of a chunk (D5), which also ends SKIP. -/
theorem latchGate_eq (s : State) : s.latchGate =
    s.withBits (if s.first then s.rxEn else s.live) (if s.first then false else s.skip) s.first := by
  unfold State.latchGate
  split <;> rfl

theorem chunk_withBits (s : State) (c : List Byte) (live skip first : Bool) :
    (s.withBits live skip first).chunk c = (s.chunk c).withBits live skip first := by
  obtain ⟨out, h⟩ := chunk_framed c
  rw [h, h]
  rfl

/-- `skip` is the one bit that an accepted byte writes, and it writes it at a length byte out of range. -/
theorem takeByte_withBits (hok : s.req = 0 → lengthOk s.cfg b = true) (live skip first : Bool) :
    (s.withBits live skip first).takeByte b = (s.takeByte b).withBits live skip first := by
  by_cases hr : s.req = 0
  · rw [takeByte_lengthOk hr (hok hr), takeByte_lengthOk (s := s.withBits live skip first) hr (hok hr)]
    rfl
  · by_cases hend : s.buf.length + 1 = s.req
    · rw [takeByte_complete hr hend, takeByte_complete (s := s.withBits live skip first) hr hend]
      rfl
    · rw [takeByte_collect hr hend, takeByte_collect (s := s.withBits live skip first) hr hend]
      rfl

/-! ### One transfer -/

section Transfer

variable {last live skip : Bool} (hlive : live = if s.first then s.rxEn else s.live)
  (hskip : skip = if s.first then false else s.skip)

include hlive hskip

theorem execByte_eq : execByte b last s = .next
    ((if live && !skip then (s.withBits live skip s.first).takeByte b
      else s.withBits live skip s.first).endTransfer last) := by
  rw [execByte, latchGate_eq, ← hlive, ← hskip]
  rfl

/-- R112: with the latched gate shut or in SKIP a byte is discarded. -/
theorem execByte_discarded (h : live = false ∨ skip = true) :
    execByte b last s = .next (s.withBits live (skip && !last) last) := by
  rw [execByte_eq hlive hskip, if_neg (by obtain rfl | rfl := h <;> simp)]
  rfl

/-- R112: otherwise a byte is accepted, if it is in range where a length byte is expected. -/
theorem execByte_accepted (hl : live = true) (hs : skip = false) (hok : s.req = 0 → lengthOk s.cfg b = true) :
    execByte b last s = .next ((s.takeByte b).withBits true false last) := by
  subst hl hs
  rw [execByte_eq hlive hskip, if_pos (by decide), takeByte_withBits hok]
  rfl

/-- R112: a byte out of range in IDLE begins SKIP. -/
theorem execByte_desync (hl : live = true) (hs : skip = false) (hr : s.req = 0) (hbad : lengthOk s.cfg b = false) :
    execByte b last s = .next (s.withBits true (!last) last) := by
  subst hl hs
  rw [execByte_eq hlive hskip, if_pos (by decide), takeByte_lengthBad (s := s.withBits true false s.first) hr hbad]
  cases last <;> rfl

/-- R229: what `BYTE` raises. -/
theorem raises_byte : raises (.byte b last) s =
    if live && !skip && s.req == 0 && !lengthOk s.cfg b then some .framingDesync else none := by
  rw [raises, State.byteDesyncs, latchGate_eq, ← hlive, ← hskip]
  rfl

end Transfer

/-- Settles O26: a byte is discarded, accepted in IDLE, out of range in IDLE, or accepted in COLLECT, where it may be
the last of its frame. -/
theorem byteFollowsThePhaseMachine : Obligations.ByteFollowsThePhaseMachine := by
  intro b last s live skip hlive hskip
  refine ⟨fun hdiscarded => ⟨execByte_discarded hlive hskip hdiscarded, ?_⟩,
    fun hl hs => ⟨?start, ?desync, ?collect, ?complete⟩⟩
  · rw [raises_byte hlive hskip]
    obtain rfl | rfl := hdiscarded <;> simp
  all_goals rw [raises_byte hlive hskip]
  case start =>
    intro hr hmin hmax
    have hok := (lengthOk_iff _ _).2 ⟨hmin, hmax⟩
    refine ⟨(execByte_accepted hlive hskip hl hs fun _ => hok).trans ?_, by simp [hok]⟩
    rw [takeByte_lengthOk hr hok]
    rfl
  case desync =>
    intro hr hbad
    have hbad := (lengthOk_eq_false_iff _ _).2 hbad
    exact ⟨execByte_desync hlive hskip hl hs hr hbad, by simp [hl, hs, hr, hbad]⟩
  case collect =>
    intro hr hmore
    refine ⟨(execByte_accepted hlive hskip hl hs fun h => absurd h hr).trans ?_, by simp [hr]⟩
    rw [takeByte_collect hr hmore]
    rfl
  case complete =>
    intro hr hend
    refine ⟨(execByte_accepted hlive hskip hl hs fun h => absurd h hr).trans ?_, by simp [hr]⟩
    rw [takeByte_complete hr hend]
    rfl

/-! ### The transfers of a chunk -/

/-- What the rest of a chunk, `c`, does from rest: in SKIP or with the latched gate shut, nothing (R112). -/
def State.restOfChunk (live skip : Bool) (c : List Byte) (s : State) : State :=
  if live && !skip then s.chunk c else s

theorem restOfChunk_nil (h : s.atRest = true) (live skip : Bool) : s.restOfChunk live skip [] = s := by
  rw [State.restOfChunk, chunk_nil h, ite_self]

theorem restOfChunk_discarded {live skip : Bool} (h : live = false ∨ skip = true) (c : List Byte) :
    s.restOfChunk live skip c = s := by
  rw [State.restOfChunk, if_neg (by obtain rfl | rfl := h <;> simp)]

theorem restOfChunk_withBits (live skip live' skip' first : Bool) (c : List Byte) (s : State) :
    (s.withBits live' skip' first).restOfChunk live skip c
      = (s.restOfChunk live skip c).withBits live' skip' first := by
  rw [State.restOfChunk, State.restOfChunk, chunk_withBits]
  split <;> rfl

/-- R24: at rest with no frame in progress no byte is held. -/
theorem buf_eq_nil_of_atRest (h : s.atRest = true) (hr : s.req = 0) : s.buf = [] := by
  obtain ⟨-, hb⟩ | ⟨_, _, -, -, hr', -⟩ := atRest_cases h
  · exact hb
  · omega

/-- R113: a transfer leaves the Framer at rest, and to the rest of the chunk what is left of it to do. -/
theorem execByte_then_restOfChunk {live skip : Bool} (h : s.atRest = true)
    (hlive : live = if s.first then s.rxEn else s.live) (hskip : skip = if s.first then false else s.skip) (b : Byte) :
    ∃ (t : State) (skip' : Bool),
      (∀ last, exec (.byte b last) s = .next (t.withBits live (skip' && !last) last)) ∧ t.atRest = true ∧
      ∀ c, s.restOfChunk live skip (b :: c) = t.restOfChunk live skip' c := by
  by_cases hdiscarded : live = false ∨ skip = true
  · refine ⟨s, skip, fun _ => execByte_discarded hlive hskip hdiscarded, h, fun c => ?_⟩
    rw [restOfChunk_discarded hdiscarded, restOfChunk_discarded hdiscarded]
  · obtain ⟨hl, hs⟩ : live = true ∧ skip = false := by simpa using hdiscarded
    by_cases hok : s.req = 0 → lengthOk s.cfg b = true
    · refine ⟨s.takeByte b, false, fun _ => ?_, takeByte_atRest h b, fun c => ?_⟩
      · rw [hl]
        exact execByte_accepted hlive hskip hl hs hok
      · rw [hs, State.restOfChunk, State.restOfChunk, chunk_cons h hok, hl]
        rfl
    · obtain ⟨hr, hbad⟩ := Classical.not_imp.1 hok
      have hbad : lengthOk s.cfg b = false := by simpa using hbad
      refine ⟨s, true, fun _ => ?_, h, fun c => ?_⟩
      · rw [hl]
        exact execByte_desync hlive hskip hl hs hr hbad
      · rw [restOfChunk_discarded (.inr rfl), State.restOfChunk, chunk_cons_bad hr (buf_eq_nil_of_atRest h hr) hbad, ite_self]

theorem runOps_byteOps {c : List Byte} (hc : c ≠ []) : ∀ {s : State} {live skip : Bool}, s.atRest = true →
    live = (if s.first then s.rxEn else s.live) → skip = (if s.first then false else s.skip) →
    runOps (byteOps c) s = .next ((s.restOfChunk live skip c).withBits live false true) := by
  induction c with
  | nil => exact absurd rfl hc
  | cons b c ih =>
    intro s live skip h hlive hskip
    obtain ⟨t, skip', hbyte, ht, hrest⟩ := execByte_then_restOfChunk h hlive hskip b
    rw [hrest]
    cases c with
    | nil =>
      rw [byteOps, runOps_cons_of_next (hbyte true), restOfChunk_nil ht, Bool.not_true, Bool.and_false]
      rfl
    | cons d c =>
      rw [byteOps, runOps_cons_of_next (hbyte false),
        ih (by simp) (s := t.withBits live (skip' && !false) false) (live := live) (skip := skip') ht rfl
          (Bool.and_true skip').symm,
        restOfChunk_withBits]
      rfl

/-- Settles O27: the first transfer latches the gate and finds no SKIP. -/
theorem byteSerialFramerEqualsChunk : Obligations.ByteSerialFramerEqualsChunk := by
  intro c s hrest hfirst hc
  have hchunk : exec (.chunk c) s = .next (s.restOfChunk s.rxEn false c) := by
    simp [exec, execChunk, State.restOfChunk]
  exact ⟨_, hchunk, runOps_byteOps hc hrest (by simp [hfirst]) (by simp [hfirst])⟩

end Sys2Proof.Machine
end

section
/-! The SequenceAllocator (41_sequence_allocator.md): one `SEQNEXT` is one modular increment (R130, R131), so a run of
them lists the residues `c`, `c + 1`, ... of the counter (R132). -/

namespace Sys2Proof.Machine

/-! ### One `SEQNEXT` -/

/-- R130: the next state of `SEQNEXT`; the increment does not touch the history the old value goes to. -/
theorem exec_seqNext (s : State) : exec .seqNext s = .next (s.advanceCounter.emit (.seq s.seqCtr)) := rfl

/-- R131: with `SEQ_MOD` = 256 the increment is the addition of the 8-bit counter, wrap-around included. -/
theorem advanceCounter_seqCtr_of_256 {s : State} (hmod : s.cfg.seqMod = 256) :
    s.advanceCounter.seqCtr = s.seqCtr + 1 := by
  apply BitVec.eq_of_toNat_eq
  rw [advanceCounter_toNat, hmod, BitVec.toNat_add]
  rfl

/-- Settles O30: the modular increment, and its 8-bit form for the source value of `SEQ_MOD`. -/
theorem seqNextReturnsThenIncrements : Obligations.SeqNextReturnsThenIncrements :=
  fun s => ⟨_, exec_seqNext s, rfl, advanceCounter_toNat s, advanceCounter_seqCtr_of_256⟩

/-! ### A run of `SEQNEXT` -/

/-- R132: the value the counter has when `k` values have been taken since it was `c`. -/
def seqValue (cfg : Config) (c k : Nat) : SeqNum := BitVec.ofNat 8 ((c + k) % cfg.seqMod)

theorem seqValue_toNat (cfg : Config) (c k : Nat) : (seqValue cfg c k).toNat = (c + k) % cfg.seqMod := by
  have hlt : (c + k) % cfg.seqMod < cfg.seqMod := Nat.mod_lt _ cfg.seqMod_pos
  exact Nat.mod_eq_of_lt (hlt.trans_le cfg.seqMod_le)

theorem seqValue_zero {s : State} (h : s.counterOk = true) : seqValue s.cfg s.seqCtr.toNat 0 = s.seqCtr := by
  apply BitVec.eq_of_toNat_eq
  rw [seqValue_toNat, Nat.add_zero, Nat.mod_eq_of_lt ((counterOk_iff s).1 h)]

/-- What is `k` values after the incremented counter is `k + 1` values after the counter. -/
theorem seqValue_advanceCounter (s : State) (k : Nat) :
    seqValue s.cfg s.advanceCounter.seqCtr.toNat k = seqValue s.cfg s.seqCtr.toNat (k + 1) := by
  rw [advanceCounter_toNat, seqValue, seqValue, Nat.mod_add_mod, Nat.add_assoc, Nat.add_comm 1 k]

theorem counterOk_advanceCounter (s : State) : s.advanceCounter.counterOk = true := by
  rw [counterOk_iff, advanceCounter_toNat]
  exact Nat.mod_lt _ s.cfg.seqMod_pos

/-- The state after `n` times `SEQNEXT`: the first `n` values are returned, the next one is in the counter (R132). -/
def State.seqNexts (n : Nat) (s : State) : State :=
  { s with
    seqCtr := seqValue s.cfg s.seqCtr.toNat n
    history := s.history ++ (List.range n).map fun k => .seq (seqValue s.cfg s.seqCtr.toNat k) }

theorem seqNexts_zero {s : State} (h : s.counterOk = true) : s.seqNexts 0 = s := by
  simp [State.seqNexts, seqValue_zero h]

/-- The first value goes to the history before the others. -/
theorem seqNexts_succ {s : State} (h : s.counterOk = true) (n : Nat) :
    s.seqNexts (n + 1) = (s.advanceCounter.emit (.seq s.seqCtr)).seqNexts n := by
  simp only [State.seqNexts, State.emit, State.advanceCounter_cfg, seqValue_advanceCounter, List.range_succ_eq_map,
    List.map_cons, List.map_map, seqValue_zero h, State.advanceCounter_history, List.append_assoc]
  rfl

/-- R132: `SEQNEXT` by `SEQNEXT`, each leaving the counter in its range. -/
theorem runOps_seqNext (n : Nat) : ∀ {s : State}, s.counterOk = true →
    runOps (List.replicate n .seqNext) s = .next (s.seqNexts n) := by
  induction n with
  | zero => exact fun h => congrArg Host.Outcome.next (seqNexts_zero h).symm
  | succ n ih =>
    intro s h
    have hok : (s.advanceCounter.emit (.seq s.seqCtr)).counterOk = true := counterOk_advanceCounter s
    rw [List.replicate_succ, runOps_cons_of_next (exec_seqNext s), ih hok, seqNexts_succ h]

/-! ### One cycle of values -/

/-- R132: no value repeats within `SEQ_MOD` consecutive ones. -/
theorem seqValue_injOn (cfg : Config) (c : Nat) {k l : Nat} (hk : k < cfg.seqMod) (hl : l < cfg.seqMod)
    (h : seqValue cfg c k = seqValue cfg c l) : k = l := by
  have hmod : c + k ≡ c + l [MOD cfg.seqMod] := by
    rw [Nat.ModEq, ← seqValue_toNat, h, seqValue_toNat]
  exact (Nat.ModEq.add_left_cancel' c hmod).eq_of_lt_of_lt hk hl

/-- R132: no value is left out: `-c` is `(SEQ_MOD - 1) * c` modulo `SEQ_MOD`, so `v` is `v - c` values after `c`. -/
theorem exists_seqValue_eq (cfg : Config) (c : Nat) {v : Nat} (hv : v < cfg.seqMod) :
    ∃ k < cfg.seqMod, seqValue cfg c k = BitVec.ofNat 8 v := by
  refine ⟨(v + (cfg.seqMod - 1) * c) % cfg.seqMod, Nat.mod_lt _ cfg.seqMod_pos, congrArg (BitVec.ofNat 8) ?_⟩
  have hsum : c + (v + (cfg.seqMod - 1) * c) = v + cfg.seqMod * c := by
    have hcycle : (cfg.seqMod - 1) * c + c = cfg.seqMod * c := by
      rw [← Nat.add_one_mul, Nat.sub_add_cancel cfg.seqMod_pos]
    omega
  rw [Nat.add_mod_mod, hsum, Nat.add_mul_mod_self_left, Nat.mod_eq_of_lt hv]

theorem count_seqValues (cfg : Config) (c : Nat) {v : Nat} (hv : v < cfg.seqMod) :
    ((List.range cfg.seqMod).map (seqValue cfg c)).count (BitVec.ofNat 8 v) = 1 := by
  refine List.count_eq_one_of_mem (List.nodup_range.map_on fun k hk l hl => ?_) (List.mem_map.2 ?_)
  · exact seqValue_injOn cfg c (List.mem_range.1 hk) (List.mem_range.1 hl)
  · simpa only [List.mem_range] using exists_seqValue_eq cfg c hv

/-- Settles O31: a run returns the values in order, and `SEQ_MOD` of them are one cycle. -/
theorem seqNextCyclesWithoutGapsOrRepeats : Obligations.SeqNextCyclesWithoutGapsOrRepeats :=
  ⟨fun n s h => ⟨_, runOps_seqNext n h, rfl, seqValue_toNat s.cfg s.seqCtr.toNat n⟩,
    fun cfg c _ hv => count_seqValues cfg c hv⟩

end Sys2Proof.Machine
end

section
/-! The AcknowledgementTable (42_ack_table.md): what each of its operations does to its slot, that nothing else reads or
writes a slot (R147), that a registered tag is delivered (R145) and is delivered once (R148). -/

namespace Sys2Proof.Machine

variable {s t : State} {q : SeqNum} {tag : Tag}

/-! ### One operation on a slot -/

/-- R141: the next state of `ACKREG`. -/
theorem exec_ackReg (q : SeqNum) (tag : Tag) (s : State) :
    exec (.ackReg q tag) s = .next (s.setSlot q (some tag)) := rfl

/-- R142: the next state of `ACKRES`. -/
theorem exec_ackRes (q : SeqNum) (s : State) : exec (.ackRes q) s = .next (s.resolve q) := rfl

/-- R143: the next state of `ACKREL`. -/
theorem exec_ackRel (q : SeqNum) (s : State) : exec (.ackRel q) s = .next (s.setSlot q none) := rfl

/-- R34: the valid bit is clear exactly for an empty slot. -/
theorem valid_eq_false_iff (s : State) (q : SeqNum) : s.valid q = false ↔ s.slot q = none :=
  Option.isSome_eq_false_iff.trans Option.isNone_iff_eq_none

/-- R226: X6 is raised by a registration of a filled slot. -/
theorem raises_ackReg (q : SeqNum) (tag : Tag) (s : State) :
    raises (.ackReg q tag) s = if s.slot q = none then none else some (.slotOverwrite q) := by
  simp only [raises, ← valid_eq_false_iff]
  cases s.valid q <;> rfl

/-- R225: X5 is raised by a resolve of an empty slot. -/
theorem missOf_eq (q : SeqNum) (s : State) :
    s.missOf q = if s.slot q = none then some (.resolveMiss q) else none := by
  simp only [State.missOf, ← valid_eq_false_iff]
  cases s.valid q <;> rfl

/-- R142: what a resolve of a filled slot adds to the history. -/
theorem resolve_history_of_filled (h : s.slot q = some tag) :
    (s.resolve q).history = s.history ++ [.done tag] := by
  simp [resolve_filled s q h]

/-- R164, R165: the acknowledgement of a filled slot adds `DONE` and then `RESPONSE`. -/
theorem acknowledge_history_of_filled (h : s.slot q = some tag) (code : Byte) :
    (s.acknowledge q code).history = s.history ++ [.done tag, .response q code] := by
  simp [State.acknowledge, resolve_history_of_filled h]

/-- R164: `ROUTE` of the five-byte acknowledgement of `q` takes the acknowledgement path. -/
theorem exec_route_ackBytes {code : Byte} {rest : List Frame}
    (h : s.frmQ = ackBytes s.cfg.ackType q code :: rest) :
    exec .route s = .next ((s.setQueue rest).acknowledge q code) :=
  (execRoute_cons s h).trans (routeFrame_ack (s.setQueue rest) rfl rfl)

/-- Settles O33: `ACKREG` is one write of the table. -/
theorem ackRegOverwritesItsSlot : Obligations.AckRegOverwritesItsSlot := by
  intro q tag s
  refine ⟨⟨_, exec_ackReg q tag s, slot_setSlot_self s q _, fun r hr => slot_setSlot_of_ne s _ hr, rfl⟩, ?_⟩
  rw [raises_ackReg]
  by_cases h : s.slot q = none <;> simp [h]

/-- Settles O34: `ACKRES` is a resolve, of a filled or of an empty slot. -/
theorem ackResDeliversAndEmptiesItsSlot : Obligations.AckResDeliversAndEmptiesItsSlot := by
  intro q s
  refine ⟨fun tag h => ?filled, fun h => ?empty⟩
  case filled =>
    refine ⟨_, exec_ackRes q s, resolve_slot_self s q, fun r hr => resolve_slot_of_ne s hr, ?_, ?_⟩
    · rw [← resolve_history_of_filled h]
      exact resolve_eq s q
    · exact (missOf_eq q s).trans (by simp [h])
  case empty =>
    refine ⟨?_, (missOf_eq q s).trans (if_pos h)⟩
    rw [exec_ackRes, resolve_empty s q h]

/-- Settles O35: `ACKREL` is one write of the table. -/
theorem ackRelEmptiesItsSlotSilently : Obligations.AckRelEmptiesItsSlotSilently :=
  fun q s => ⟨_, exec_ackRel q s, slot_setSlot_self s q none, fun _ hr => slot_setSlot_of_ne s none hr, rfl⟩

/-- Settles O36: of two writes of a slot the second is kept, and a resolve finds it. -/
theorem overwrittenTagIsLost : Obligations.OverwrittenTagIsLost := by
  intro q first second s
  have htwice (rest : List Instr) : runOps (.ackReg q first :: .ackReg q second :: rest) s
      = runOps rest (s.setSlot q (some second)) := by
    rw [runOps_cons_of_next (exec_ackReg q first s), runOps_cons_of_next (exec_ackReg q second _), setSlot_setSlot]
  refine ⟨htwice [], (s.setSlot q (some second)).resolve q, htwice [.ackRes q], ?_, resolve_slot_self _ q⟩
  exact resolve_history_of_filled (slot_setSlot_self s q _)

/-! ### Operations on other slots -/

theorem setSlot_slot_self (s : State) (q : SeqNum) : s.setSlot q (s.slot q) = s := by
  simp [State.setSlot, State.slot]

/-- R147: the acknowledgement of one slot and a write of another commute. -/
theorem acknowledge_setSlot {r : SeqNum} (h : r ≠ q) (v : Option Tag) (code : Byte) (s : State) :
    (s.setSlot q v).acknowledge r code = (s.acknowledge r code).setSlot q v :=
  congrArg (State.emit (.response r code)) (resolve_setSlot s v h)

/-- R147: the router uses a slot only for an acknowledgement frame whose byte 3 names it. -/
theorem routeFrame_setSlot {p : Frame} (h : p[3]? ≠ some q ∨ p[1]? ≠ some s.cfg.ackType) (v : Option Tag) :
    routeFrame p (s.setSlot q v) = mapNext (State.setSlot q v) (routeFrame p s) := by
  cases hs : sizeOk p with
  | false => rw [routeFrame_mismatch _ hs, routeFrame_mismatch _ hs]; rfl
  | true =>
    match p with
    | [] | [_] => simp [routeFrame, hs, mapNext]
    | len :: type :: payload =>
      by_cases htype : type = s.cfg.ackType
      · subst htype
        match payload with
        | [] | [_] | [_, _] => simp [routeFrame, hs, mapNext]
        | _ :: r :: code :: _ =>
          have hr : r ≠ q := by simpa using h
          rw [routeFrame_ack s hs rfl, routeFrame_ack (s.setSlot q v) hs rfl, acknowledge_setSlot hr]
          rfl
      · rw [routeFrame_forward s hs htype, routeFrame_forward (s.setSlot q v) hs htype]; rfl

/-- R147: an operation that is not on slot `q` commutes with a write of it. -/
theorem exec_setSlot_of_sparesSlot {i : Instr} (h : sparesSlot q i = true) (v : Option Tag) (s : State) :
    exec i (s.setSlot q v) = mapNext (State.setSlot q v) (exec i s) := by
  cases i with
  | chunk c =>
    obtain ⟨out, hout⟩ := execChunk_framed c
    simp only [exec, hout]
    rfl
  | byte b last =>
    obtain ⟨out, hout⟩ := execByte_framed b last
    simp only [exec, hout]
    rfl
  | ackReg r tag => exact congrArg Host.Outcome.next (setSlot_comm s v (bne_iff_ne.1 h) (some tag))
  | ackRes r => exact congrArg Host.Outcome.next (resolve_setSlot s v (bne_iff_ne.1 h))
  | ackRel r => exact congrArg Host.Outcome.next (setSlot_comm s v (bne_iff_ne.1 h) none)
  | ackFrm _ _ r code _ => exact congrArg Host.Outcome.next (acknowledge_setSlot (bne_iff_ne.1 h) v code s)
  | route | reset => exact absurd h Bool.false_ne_true
  | _ => rfl

/-- Settles O37: a write of the slot commutes with the operation, and with `ROUTE` by the frame at the head. -/
theorem slotsAreIndependent : Obligations.SlotsAreIndependent := by
  intro q v i s
  refine ⟨fun h => exec_setSlot_of_sparesSlot h v s, fun p rest hq h => ?_⟩
  have hroute : ∀ u : State, u.frmQ = p :: rest → exec .route u = routeFrame p (u.setQueue rest) :=
    fun u => execRoute_cons u
  rw [hroute s hq, hroute (s.setSlot q v) hq]
  exact routeFrame_setSlot (s := s.setQueue rest) h v

/-! ### A registered tag is delivered -/

/-- R145: an operation that is not on slot `q` keeps it: it commutes with writing there what it holds. -/
theorem exec_slot_of_sparesSlot {i : Instr} (h : sparesSlot q i = true) (ht : exec i s = .next t) :
    t.slot q = s.slot q := by
  have hcomm := exec_setSlot_of_sparesSlot h (s.slot q) s
  rw [setSlot_slot_self, ht] at hcomm
  have hkept : t = t.setSlot q (s.slot q) := Host.Outcome.next.inj hcomm
  rw [hkept, slot_setSlot_self]

/-- A run that completes is its first operation and the run of the others. -/
theorem exists_exec_of_runOps_cons {i : Instr} {ops : List Instr} (h : runOps (i :: ops) s = .next t) :
    ∃ u, exec i s = .next u ∧ runOps ops u = .next t := by
  simp only [runOps] at h
  split at h
  · exact ⟨_, ‹_›, h⟩
  · cases h
  · cases h

/-- R61: so does a run of such operations. -/
theorem runOps_slot_of_sparesSlot {ops : List Instr} (hops : ∀ i ∈ ops, sparesSlot q i = true) :
    ∀ {s : State}, runOps ops s = .next t → t.slot q = s.slot q := by
  induction ops with
  | nil => rintro s ⟨⟩; rfl
  | cons i ops ih =>
    intro s h
    obtain ⟨hi, hrest⟩ := List.forall_mem_cons.1 hops
    obtain ⟨u, hu, ht⟩ := exists_exec_of_runOps_cons h
    rw [ih hrest ht, exec_slot_of_sparesSlot hi hu]

/-- Settles O38: the slot still holds the tag when it is resolved. -/
theorem registeredTagIsDeliveredByTheNextResolve : Obligations.RegisteredTagIsDeliveredByTheNextResolve := by
  intro q tag ops s u hops hrun
  have hheld : u.slot q = some tag := by
    obtain ⟨r, hr, hu⟩ := exists_exec_of_runOps_cons hrun
    cases hr
    rw [runOps_slot_of_sparesSlot hops hu, slot_setSlot_self]
  refine ⟨⟨_, exec_ackRes q u, resolve_history_of_filled hheld, resolve_slot_self u q⟩, fun code rest hq => ?_⟩
  exact ⟨_, exec_route_ackBytes hq, acknowledge_history_of_filled (s := u.setQueue rest) hheld code,
    resolve_slot_self _ q⟩

/-- R105: in IDLE a chunk that is one frame leaves the Framer as that frame. -/
theorem exec_chunk_frame {p : Frame} (hopen : s.rxEn = true) (hr : s.req = 0) (hb : s.buf = [])
    (hp : frameOk s.cfg p = true) : exec (.chunk p) s = .next (s.pushFrame p) := by
  have hframed : s.chunk p = s.framed [p] [] 0 :=
    chunk_of_frames (atRest_idle hr hb) (by simpa using hp) (by simp [hb])
  rw [exec_chunk_of_open hopen, hframed, State.framed, ← hb, ← hr]
  rfl

/-- Settles O49: the chunk is one well-formed frame, `ROUTE` finds it alone in the queue, and the slot holds the tag. -/
theorem acknowledgementRoundTrip : Obligations.AcknowledgementRoundTrip := by
  intro s q code tag hmin hmax hopen hr hb hq
  let p := ackBytes s.cfg.ackType q code
  let filled := s.setSlot q (some tag)
  let taken := (filled.pushFrame p).setQueue []
  have hchunk : exec (.chunk p) filled = .next (filled.pushFrame p) :=
    exec_chunk_frame hopen hr hb (frameOk_ackBytes hmin hmax q code)
  have hroute : exec .route (filled.pushFrame p) = .next (taken.acknowledge q code) :=
    exec_route_ackBytes (congrArg (· ++ [p]) hq)
  have hheld : taken.slot q = some tag := slot_setSlot_self s q (some tag)
  have hother : ∀ r, r ≠ q → taken.slot r = s.slot r := fun r => slot_setSlot_of_ne s (some tag)
  refine ⟨taken.acknowledge q code, ?run, ?history, resolve_slot_self taken q, ?others, ?frame⟩
  case run =>
    rw [runOps_cons_of_next (exec_ackReg q tag s), runOps_cons_of_next hchunk, runOps_cons_of_next hroute]
    rfl
  case history =>
    rw [acknowledge_history_of_filled hheld]
    exact List.append_assoc s.history [.frame p] _
  case others => exact fun r hrq => (resolve_slot_of_ne taken hrq).trans (hother r hrq)
  case frame =>
    have hqueue : { s with frmQ := [] } = s := by rw [← hq]
    rw [acknowledge_eq, ← hqueue]
    rfl

/-! ### A tag is delivered once -/

/-- R148: what the block has done and may still do with a tag: deliveries made, and slots that hold it. -/
def State.account (tag : Tag) (s : State) : Nat := s.deliveries tag + s.holdings tag

/-- An event that is no `DONE` delivers nothing. -/
theorem account_emit {e : Event} (h : e ≠ .done tag) (s : State) : (s.emit e).account tag = s.account tag := by
  simp only [State.account, deliveries_emit, if_neg h]
  rfl

/-- Emptying a slot adds nothing. -/
theorem account_setSlot_none_le (tag : Tag) (s : State) (q : SeqNum) :
    (s.setSlot q none).account tag ≤ s.account tag := by
  have h := holdings_setSlot s q none tag
  simp only [reduceCtorEq, if_false] at h
  exact Nat.add_le_add_left (Nat.le.intro h) (s.deliveries tag)

/-- Filling a slot adds one for the tag that is written. -/
theorem account_setSlot_some_le (tag : Tag) (s : State) (q : SeqNum) (tag' : Tag) :
    (s.setSlot q (some tag')).account tag ≤ s.account tag + if tag' = tag then 1 else 0 := by
  have h := holdings_setSlot s q (some tag') tag
  simp only [Option.some.injEq] at h
  have hd : (s.setSlot q (some tag')).deliveries tag = s.deliveries tag := rfl
  simp only [State.account, hd]
  omega

/-- R60: a resolve turns a holding into a delivery. -/
theorem account_resolve (tag : Tag) (s : State) (q : SeqNum) : (s.resolve q).account tag = s.account tag := by
  obtain ⟨-, e⟩ | ⟨tag', hslot, e⟩ := resolve_cases s q <;> rw [e]
  have hheld := holdings_setSlot (s.emit (.done tag')) q none tag
  have hmade := deliveries_emit s (.done tag') tag
  simp only [slot_emit, hslot, Option.some.injEq, Event.done.injEq, reduceCtorEq, if_false] at hheld hmade
  have hd : ((s.emit (.done tag')).setSlot q none).deliveries tag = (s.emit (.done tag')).deliveries tag := rfl
  have hh : (s.emit (.done tag')).holdings tag = s.holdings tag := rfl
  simp only [State.account, hd]
  omega

theorem account_acknowledge (tag : Tag) (s : State) (q : SeqNum) (code : Byte) :
    (s.acknowledge q code).account tag = s.account tag :=
  (account_emit (by simp) _).trans (account_resolve tag s q)

/-- Framing delivers nothing, for it adds `FRAME` events only and leaves the table (R40). -/
theorem account_of_framed (tag : Tag) {frames : List Frame} (hh : t.history = s.history ++ frames.map .frame)
    (ha : t.ack = s.ack) : t.account tag = s.account tag := by
  have hmade : t.deliveries tag = s.deliveries tag := by
    rw [State.deliveries, hh]
    exact deliveries_framed s frames s.buf s.req tag
  rw [State.account, hmade, State.account, State.holdings, ha, State.holdings]

theorem account_resetOf (tag : Tag) (cfg : Config) : (State.resetOf cfg).account tag = 0 := by
  simp [State.account, State.deliveries, State.holdings, State.resetOf, Table.empty, List.count_replicate]

theorem account_execRoute (tag : Tag) (ht : execRoute s = .next t) : t.account tag = s.account tag := by
  obtain ⟨p, rest, -, ⟨q, code, rfl⟩ | ⟨e, he, rfl⟩⟩ := execRoute_next ht
  · exact account_acknowledge tag (s.setQueue rest) q code
  · exact account_emit (by obtain rfl | rfl := he <;> simp) (s.setQueue rest)

theorem registrations_cons (tag : Tag) (i : Instr) (ops : List Instr) :
    registrations tag (i :: ops) = registrations tag [i] + registrations tag ops := List.countP_append (l₁ := [i])

theorem registrations_ackReg (tag : Tag) (q : SeqNum) (tag' : Tag) :
    registrations tag [.ackReg q tag'] = if tag' = tag then 1 else 0 := by
  simp [registrations, List.countP_cons]

/-- R148: only a registration adds to the account of a tag, and one registration adds one. -/
theorem account_exec_le (tag : Tag) {i : Instr} (ht : exec i s = .next t) :
    t.account tag ≤ s.account tag + registrations tag [i] := by
  cases i with
  | ackReg q tag' =>
    cases ht
    exact (account_setSlot_some_le tag s q tag').trans_eq (by rw [registrations_ackReg])
  | ackRel q => cases ht; exact account_setSlot_none_le tag s q
  | ackRes q => cases ht; exact (account_resolve tag s q).le
  | ackFrm _ _ q code _ => cases ht; exact (account_acknowledge tag s q code).le
  | route => exact (account_execRoute tag ht).le
  | chunk c =>
    obtain ⟨out, h⟩ := execChunk_framed c
    cases (h s).symm.trans ht
    exact le_add_right (Nat.le_of_eq (account_of_framed tag rfl rfl))
  | byte b last =>
    obtain ⟨out, h⟩ := execByte_framed b last
    cases (h s).symm.trans ht
    exact le_add_right (Nat.le_of_eq (account_of_framed tag rfl rfl))
  | seqNext => cases ht; exact (account_emit (by simp) s.advanceCounter).le
  | oprsv6 | oprsv7 | fwdFrm _ => cases ht; exact (account_emit (by simp) s).le
  | reset => cases ht; exact (account_resetOf tag s.cfg).trans_le (Nat.zero_le _)
  | _ => cases ht; exact Nat.le_refl _

/-- Settles O39, operation by operation. -/
theorem deliveriesNeverExceedRegistrations : Obligations.DeliveriesNeverExceedRegistrations := by
  intro tag ops
  induction ops with
  | nil => rintro s t ⟨⟩; exact Nat.le_refl _
  | cons i ops ih =>
    intro s t h
    obtain ⟨u, hu, ht⟩ := exists_exec_of_runOps_cons h
    have hfirst : u.account tag ≤ s.account tag + registrations tag [i] := account_exec_le tag hu
    have hothers : t.account tag ≤ u.account tag + registrations tag ops := ih u t ht
    rw [registrations_cons, ← Nat.add_assoc]
    exact hothers.trans (Nat.add_le_add_right hfirst _)

end Sys2Proof.Machine
end

section
/-! Steps that execute nothing (log entries 2, 4, 10): a turn in which there is nothing to execute, and a request that
encodes no operation. -/

namespace Sys2Proof.Machine

variable {s s' : State} {r : Request} {rest : List Request}

/-- R251: with no request to come and no frame queued the block waits. -/
theorem step_of_nothing_to_come (hin : s.inputs = []) (hq : s.frmQ = []) : step s = .next s := by
  have hfetch : fetch s = none := (fetch_of_no_request hin).trans (by simp [routerForm, hq])
  have hidle : idleNext s = s := by rw [idleNext, hin, List.tail_nil, ← hin]
  simp only [step, hfetch, hidle]

/-- A request whose form decodes to nothing is refused. -/
theorem step_of_undecodable {e : Encoded} {why : DecodeError} (hin : s.inputs = r :: rest)
    (hp : presented r { s with inputs := rest } = some (e, s')) (hd : decode s'.cfg e = .error why) :
    step s = .refused (.undecodable why) := by
  simp [step, fetch_of_request hin, hp, runForm, hd]

/-- R84: a command word with a tag too wide decodes to nothing. -/
theorem decode_op_tooWide {cfg : Config} {w : CommandWord} (h : w.tag.fits cfg = false) :
    decode cfg (.op w) = .error .tagTooWide := by
  simp [decode, h]

/-- Settles O7: the block waits, the three requests that present nothing are passed over, and the two that decode to
nothing are refused. -/
theorem stepsWithoutAnOperation : Obligations.StepsWithoutAnOperation := by
  intro s rest
  refine ⟨step_of_nothing_to_come, ?turn, ?inHand, ?reset, ?chunk, ?command⟩
  case turn => exact fun hin hq => step_of_nothing_presented hin (by simp [presented, routerForm, hq])
  case inHand => exact fun hin hq => step_of_nothing_presented hin (by simp [presented, hq])
  case reset => exact fun hin => step_of_nothing_presented hin rfl
  case chunk => exact fun run why hin hd => step_of_undecodable hin rfl hd
  case command => exact fun w hin hw => step_of_undecodable hin rfl (decode_op_tooWide hw)

end Sys2Proof.Machine
end

section
/-! The acknowledgement router (43_ack_router.md): the acknowledgement path on a filled and on an empty slot, what
`ROUTE` does with each kind of frame at the head of the queue, and the condition it raises there. -/

namespace Sys2Proof.Machine

variable {s : State} {q : SeqNum} {p : Frame} {rest : List Frame}

/-! ### The acknowledgement path -/

/-- R164, R165: the acknowledgement of a filled slot, in full. -/
theorem acknowledge_filled {tag : Tag} (h : s.slot q = some tag) (code : Byte) :
    s.acknowledge q code
      = { s with ack := (s.acknowledge q code).ack, history := s.history ++ [.done tag, .response q code] } := by
  rw [← acknowledge_history_of_filled h code]
  exact acknowledge_eq s q code

/-- R164: the acknowledgement of an empty slot is `RESPONSE` alone. -/
theorem acknowledge_empty (h : s.slot q = none) (code : Byte) :
    s.acknowledge q code = s.emit (.response q code) := by
  rw [State.acknowledge, resolve_empty s q h]

/-- R164: after its acknowledgement a slot is empty. -/
theorem acknowledge_slot_self (s : State) (q : SeqNum) (code : Byte) : (s.acknowledge q code).slot q = none :=
  resolve_slot_self s q

/-- R147: an acknowledgement leaves every other slot. -/
theorem acknowledge_slot_of_ne {r : SeqNum} (h : r ≠ q) (s : State) (code : Byte) :
    (s.acknowledge q code).slot r = s.slot r :=
  resolve_slot_of_ne s h

/-- Settles O44: `ACKFRM` is the acknowledgement path, and `FWDFRM` emits the frame. -/
theorem frameRowsActOnTheFrameInHand : Obligations.FrameRowsActOnTheFrameInHand := by
  intro s len subtype q code more p
  have hack : exec (.ackFrm len subtype q code more) s = .next (s.acknowledge q code) := rfl
  refine ⟨fun tag h => ?filled, fun h => ?empty, rfl⟩
  case filled =>
    exact ⟨_, hack, acknowledge_slot_self s q code, fun r hr => acknowledge_slot_of_ne hr s code,
      acknowledge_filled h code⟩
  case empty =>
    rw [hack, acknowledge_empty h]
    rfl

/-! ### The frame at the head of the queue -/

/-- R161: `ROUTE` takes the frame at the head of the queue. -/
theorem exec_route_cons (h : s.frmQ = p :: rest) : exec .route s = routeFrame p (s.setQueue rest) :=
  execRoute_cons s h

/-- R161: what `ROUTE` raises is what it raises for the frame it takes. -/
theorem raises_route_cons (h : s.frmQ = p :: rest) : raises .route s = s.routeRaises p := by
  simp [raises, h]

/-- Settles O46: with no frame to take `ROUTE` stops. -/
theorem routeIsNotEnabledOnAnEmptyQueue : Obligations.RouteIsNotEnabledOnAnEmptyQueue := by
  intro s h
  simp [exec, execRoute, h]

/-! ### A frame of the wrong size -/

/-- R162: the size check reads the length byte and the length of the frame. -/
theorem sizeOk_iff (p : Frame) : sizeOk p = true ↔ ∃ len, p[0]? = some len ∧ p.length = len.toNat + 1 := by
  cases p with
  | nil => simp [sizeOk]
  | cons len body => simp [sizeOk_cons]

/-- R222: X2 is raised for a frame of the wrong size. -/
theorem routeRaises_mismatch (h : sizeOk p = false) (s : State) : s.routeRaises p = some .lengthMismatch := by
  simp [State.routeRaises, h]

/-- Settles O40: the size check fails, and it comes first. -/
theorem mismatchedFrameIsLoggedAndDropped : Obligations.MismatchedFrameIsLoggedAndDropped := by
  intro s p rest hq hsize
  have hbad : sizeOk p = false := by
    rw [← Bool.not_eq_true, sizeOk_iff]
    rintro ⟨len, hlen, hp⟩
    exact hsize len hlen hp
  refine ⟨?_, (raises_route_cons hq).trans (routeRaises_mismatch hbad s)⟩
  rw [exec_route_cons hq, routeFrame_mismatch _ hbad]
  rfl

/-! ### A frame of another type -/

/-- R166: for a frame of another type nothing is raised. -/
theorem routeRaises_forward {len type : Byte} {payload : List Byte} (h : sizeOk (len :: type :: payload) = true)
    (ht : type ≠ s.cfg.ackType) : s.routeRaises (len :: type :: payload) = none := by
  simp only [State.routeRaises, if_pos h]
  split
  case h_1 hp => cases hp; exact if_neg ht
  case h_2 => rfl

/-- Settles O43: the size check succeeds, and the type byte decides. -/
theorem otherFramesAreForwardedUnchanged : Obligations.OtherFramesAreForwardedUnchanged := by
  intro s len type payload rest hq hsize ht
  have hok : sizeOk (len :: type :: payload) = true := (sizeOk_cons len _).2 hsize
  refine ⟨?_, (raises_route_cons hq).trans (routeRaises_forward hok ht)⟩
  rw [exec_route_cons hq, routeFrame_forward (s.setQueue rest) hok ht]
  rfl

/-! ### An acknowledgement -/

/-- R225: for an acknowledgement X5 is raised exactly as by a resolve of the slot that byte 3 names. -/
theorem raises_route_ackBytes {code : Byte} (h : s.frmQ = ackBytes s.cfg.ackType q code :: rest) :
    raises .route s = s.missOf q :=
  (raises_route_cons h).trans (by simp [State.routeRaises, ackBytes, sizeOk])

/-- Settles O42: both frames take the acknowledgement path with the same slot and result code. -/
theorem ackFrameIsRoutedByBytesThreeAndFour : Obligations.AckFrameIsRoutedByBytesThreeAndFour := by
  intro s len subtype q code more rest hq hsize
  have hok : sizeOk (len :: s.cfg.ackType :: subtype :: q :: code :: more) = true := (sizeOk_cons len _).2 hsize
  have hshort : exec .route { s with frmQ := ackBytes s.cfg.ackType q code :: rest }
      = .next ((s.setQueue rest).acknowledge q code) := exec_route_ackBytes rfl
  exact (exec_route_cons hq).trans ((routeFrame_ack (s.setQueue rest) hok rfl).trans hshort.symm)

/-- Settles O41: the frame takes the acknowledgement path, on a filled or on an empty slot. -/
theorem ackFrameResolvesBeforeTheResponse : Obligations.AckFrameResolvesBeforeTheResponse := by
  intro s q code rest hq
  have hack : exec .route s = .next ((s.setQueue rest).acknowledge q code) := exec_route_ackBytes hq
  have hraises : raises .route s = s.missOf q := raises_route_ackBytes hq
  refine ⟨fun tag h => ?filled, fun h => ?empty⟩
  case filled =>
    exact ⟨_, hack, acknowledge_slot_self _ q code, fun r hr => acknowledge_slot_of_ne hr (s.setQueue rest) code,
      acknowledge_filled (s := s.setQueue rest) h code, by simp [hraises, missOf_eq, h]⟩
  case empty =>
    refine ⟨?_, by simp [hraises, missOf_eq, h]⟩
    rw [hack, acknowledge_empty (s := s.setQueue rest) h]
    rfl

/-- Settles O47: the code enters the `RESPONSE` that follows the resolve, and nothing else. -/
theorem resultCodeDoesNotSteerTheTable : Obligations.ResultCodeDoesNotSteerTheTable := by
  intro s q code code' rest hq
  exact ⟨(s.setQueue rest).acknowledge q code, (s.setQueue rest).acknowledge q code',
    ((s.setQueue rest).resolve q).history, exec_route_ackBytes hq, exec_route_ackBytes rfl, rfl, rfl, rfl⟩

end Sys2Proof.Machine
end

section
/-! The control operations (44_control_ops.md): the next state of `RESET`, of the two gate operations and of the two
reserved command codes, and that each reserved code is read whatever the other fields of its word are (R84). -/

namespace Sys2Proof.Machine

/-- R182: the next state of `RESET`. -/
theorem exec_reset (s : State) : exec .reset s = .next { State.resetOf s.cfg with inputs := s.inputs } := rfl

/-- R180: the next state of `RXEN`. -/
theorem exec_rxEn (s : State) : exec .rxEn s = .next (s.setGate true) := rfl

/-- R181: the next state of `RXDIS`. -/
theorem exec_rxDis (s : State) : exec .rxDis s = .next (s.setGate false) := rfl

/-- R183: the next state of the reserved code 6. -/
theorem exec_oprsv6 (s : State) : exec .oprsv6 s = .next (s.emit (.operr 6)) := rfl

/-- R183: the next state of the reserved code 7. -/
theorem exec_oprsv7 (s : State) : exec .oprsv7 s = .next (s.emit (.operr 7)) := rfl

/-- Settles O11: the state after `RESET` is that of R45 but for the requests to come, and a second `RESET` reads only
the parameters and these requests. -/
theorem resetOperationRestoresEveryElement : Obligations.ResetOperationRestoresEveryElement := by
  intro s
  have hempty (q : SeqNum) : { State.resetOf s.cfg with inputs := s.inputs }.slot q = none :=
    (slot_congr rfl q).trans (slot_resetOf q s.cfg)
  have hslots : (State.resetOf s.cfg).ack.slots.length = s.cfg.slots := List.length_replicate
  exact ⟨_, exec_reset s, rfl, rfl, rfl, rfl, rfl, rfl, rfl, hempty, hslots, rfl, rfl, rfl, rfl, exec_reset _⟩

/-- Settles O50: `RXEN` is the gate set. -/
theorem rxEnOpensTheGateOnly : Obligations.RxEnOpensTheGateOnly := exec_rxEn

/-- Settles O51: `RXDIS` is the gate cleared. -/
theorem rxDisShutsTheGateOnly : Obligations.RxDisShutsTheGateOnly := exec_rxDis

/-- Settles O52: a tag of `TAG_W` bits makes the word a transfer of the port, its `op` field alone picks the row, and
the row appends its one event. -/
theorem reservedCodesOnlyReportThemselves : Obligations.ReservedCodesOnlyReportThemselves := by
  intro s seq tag
  have hsix : decodeCommand ⟨6, seq, tag⟩ = .oprsv6 := rfl
  have hseven : decodeCommand ⟨7, seq, tag⟩ = .oprsv7 := rfl
  refine ⟨fun htag => ⟨?six, ?seven⟩, exec_oprsv6 s, exec_oprsv7 s, rfl, rfl⟩
  case six => rw [Laws.decode_op htag, hsix]
  case seven => rw [Laws.decode_op htag, hseven]

end Sys2Proof.Machine
end

section
/-! What stops or masks an operation (60_exceptions.md): X1 is raised exactly where a length byte out of range is met
(R221), the gate is read by the receive port alone (R231), and no request that the ports can express stops the block
(R220). -/

namespace Sys2Proof.Machine

variable {s t : State}

/-! ### Where X1 is raised -/

/-- R221: whole frames of the byte sequence are followed by a byte out of range where a length byte is expected. -/
def MeetsBadLength (cfg : Config) (bytes : List Byte) : Prop :=
  ∃ (frames : List Frame) (b : Byte) (rest : List Byte), (∀ p ∈ frames, frameOk cfg p = true) ∧
    (b.toNat < cfg.lenMin ∨ cfg.lenMax < b.toNat) ∧ bytes = frames.flatten ++ b :: rest

theorem not_meetsBadLength_nil (cfg : Config) : ¬ MeetsBadLength cfg [] := by
  simp [MeetsBadLength]

theorem meetsBadLength_cons_bad {cfg : Config} {b : Byte} (h : b.toNat < cfg.lenMin ∨ cfg.lenMax < b.toNat)
    (body : List Byte) : MeetsBadLength cfg (b :: body) :=
  ⟨[], b, body, by simp, h, rfl⟩

/-- A length byte in range begins a frame, and what is met is met after this frame. -/
theorem meetsBadLength_cons_lengthOk {cfg : Config} {d : Byte} (hok : lengthOk cfg d = true) (body : List Byte) :
    MeetsBadLength cfg (d :: body) ↔ d.toNat ≤ body.length ∧ MeetsBadLength cfg (body.drop d.toNat) := by
  constructor
  · rintro ⟨frames, b, rest, hframes, hbad, hbytes⟩
    cases frames with
    | nil =>
      obtain ⟨rfl, -⟩ := List.cons.inj hbytes
      exact absurd hok (by simpa using (lengthOk_eq_false_iff _ _).2 hbad)
    | cons p frames =>
      obtain ⟨hp, hothers⟩ := List.forall_mem_cons.1 hframes
      obtain ⟨_, payload, rfl, -, hlen⟩ := (frameOk_iff _ _).1 hp
      obtain ⟨rfl, rfl⟩ := List.cons.inj hbytes
      rw [← hlen]
      exact ⟨by simp, frames, b, rest, hothers, hbad, by simp⟩
  · rintro ⟨hle, frames, b, rest, hframes, hbad, hbytes⟩
    have hp : frameOk cfg (d :: body.take d.toNat) = true :=
      (frameOk_iff _ _).2 ⟨d, _, rfl, hok, List.length_take_of_le hle⟩
    refine ⟨(d :: body.take d.toNat) :: frames, b, rest, List.forall_mem_cons.2 ⟨hp, hframes⟩, hbad, ?_⟩
    rw [List.flatten_cons, List.append_assoc, ← hbytes, List.cons_append, List.take_append_drop]

/-! The passes of `loopDesyncs` are those of `chunkLoop`. -/

theorem loopDesyncs_stop (h : s.buf.length < s.req) (n : Nat) : loopDesyncs n s = false := by
  cases n <;> simp [loopDesyncs, h]

theorem loopDesyncs_lengthOk {b : Byte} {body : List Byte} (h : s.req ≤ s.buf.length)
    (hb : s.collectFrame.buf = b :: body) (hok : lengthOk s.cfg b = true) (n : Nat) :
    loopDesyncs (n + 1) s = loopDesyncs n (s.collectFrame.startFrame b) := by
  simp [loopDesyncs, Nat.not_lt.2 h, hb, hok]

theorem loopDesyncs_lengthBad {b : Byte} {body : List Byte} (h : s.req ≤ s.buf.length)
    (hb : s.collectFrame.buf = b :: body) (hbad : lengthOk s.cfg b = false) (n : Nat) :
    loopDesyncs (n + 1) s = true := by
  simp [loopDesyncs, Nat.not_lt.2 h, hb, hbad]

theorem loopDesyncs_nothing (h : s.req ≤ s.buf.length) (hb : s.collectFrame.buf = []) (n : Nat) :
    loopDesyncs (n + 1) s = false := by
  simp [loopDesyncs, Nat.not_lt.2 h, hb]

/-- R24: the frame in progress, if there is one, has been started by the byte at the head of the buffer. Every pass of
the loop keeps this, while the buffer may hold more than the frame. -/
def State.StartedAtHead (s : State) : Prop :=
  s.req = 0 ∨ ∃ b body, s.buf = b :: body ∧ lengthOk s.cfg b = true ∧ s.req = b.toNat + 1

theorem startedAtHead_appendBuf (h : s.atRest = true) (c : List Byte) : (s.appendBuf c).StartedAtHead := by
  obtain ⟨hr, -⟩ | ⟨b, body, hb, hok, hr, -⟩ := atRest_cases h
  · exact .inl hr
  · exact .inr ⟨b, body ++ c, by simp [hb], hok, hr⟩

/-- R105: the frame that a pass emits is no place to meet a bad length byte. -/
theorem meetsBadLength_collectFrame (h : s.StartedAtHead) (hle : s.req ≤ s.buf.length) :
    MeetsBadLength s.cfg s.buf ↔ MeetsBadLength s.cfg s.collectFrame.buf := by
  obtain hr | ⟨d, body, hb, hok, hr⟩ := h
  · rw [collectFrame_of_req_zero hr]
  · have hbody : d.toNat ≤ body.length := by simpa [hb, hr] using hle
    rw [collectFrame_of_req_pos (by omega), State.emitFrame_buf, hb, hr, List.drop_succ_cons,
      meetsBadLength_cons_lengthOk hok, and_iff_right hbody]

/-- With a piece of the frame in progress no bad length byte is met. -/
theorem not_meetsBadLength_of_short (h : s.StartedAtHead) (hl : s.buf.length < s.req) :
    ¬ MeetsBadLength s.cfg s.buf := by
  obtain hr | ⟨d, body, hb, hok, hr⟩ := h
  · omega
  · rw [hb, List.length_cons] at hl
    rw [hb, meetsBadLength_cons_lengthOk hok]
    rintro ⟨hle, -⟩
    omega

/-- R221: along the loop of R102, with any bound not below its passes. -/
theorem LoopRuns.loopDesyncs_iff {n : Nat} (h : LoopRuns n s t) : s.StartedAtHead → ∀ k,
    (loopDesyncs (n + k) s = true ↔ MeetsBadLength s.cfg s.buf) := by
  induction h with
  | stop s hl =>
    intro hs k
    simp [loopDesyncs_stop hl, not_meetsBadLength_of_short hs hl]
  | lengthOk n s t b body hle hb hmin hmax _ ih =>
    intro hs k
    have hok := (lengthOk_iff s.cfg b).2 ⟨hmin, hmax⟩
    have hnext : (s.collectFrame.startFrame b).StartedAtHead := .inr ⟨b, body, hb, by simpa using hok, rfl⟩
    rw [Nat.add_right_comm, loopDesyncs_lengthOk hle hb hok, meetsBadLength_collectFrame hs hle, ← collectFrame_cfg s]
    exact ih hnext k
  | lengthBad s b body hle hb hbad =>
    intro hs k
    rw [Nat.add_comm, loopDesyncs_lengthBad hle hb ((lengthOk_eq_false_iff _ _).2 hbad),
      meetsBadLength_collectFrame hs hle, hb]
    exact iff_of_true rfl (meetsBadLength_cons_bad hbad body)
  | nothing s hle hb =>
    intro hs k
    rw [Nat.add_comm, loopDesyncs_nothing hle hb, meetsBadLength_collectFrame hs hle, hb]
    exact iff_of_false Bool.false_ne_true (not_meetsBadLength_nil _)

/-- R221: what an open `CHUNK` raises from rest, the bound on its passes being no restriction (R109). -/
theorem raises_chunk_iff (hopen : s.rxEn = true) (h : s.atRest = true) (c : List Byte) :
    raises (.chunk c) s = some .framingDesync ↔ MeetsBadLength s.cfg (s.buf ++ c) := by
  obtain ⟨n, hn⟩ := loopRuns_chunk c s
  obtain ⟨k, hk⟩ : ∃ k, passBound (s.buf ++ c).length = n + k := Nat.exists_eq_add_of_le hn.passes_le
  have hloop : raises (.chunk c) s = some .framingDesync ↔ loopDesyncs (n + k) (s.appendBuf c) = true := by
    rw [raises, State.chunkDesyncs, hopen, hk, Bool.true_and]
    simp
  exact hloop.trans (hn.loopDesyncs_iff (startedAtHead_appendBuf h c) k)

/-- Settles O29, by the bytes held and delivered, and by what `CHUNK` does with them after a bad length byte. -/
theorem framingDesyncIsRaisedExactlyAtABadLengthByte :
    Obligations.FramingDesyncIsRaisedExactlyAtABadLengthByte := by
  intro c s hopen hrest
  refine ⟨raises_chunk_iff hopen hrest c, fun hraised => ?_⟩
  obtain ⟨frames, b, rest, hframes, hbad, hbytes⟩ := (raises_chunk_iff hopen hrest c).1 hraised
  exact ⟨_, desyncDiscardsTheRestOfTheChunk c s frames b rest hopen hrest hframes hbad hbytes, rfl⟩

/-! ### What reads the gate -/

theorem resolve_setGate (v : Bool) (s : State) (q : SeqNum) : (s.setGate v).resolve q = (s.resolve q).setGate v := by
  obtain ⟨h, e⟩ | ⟨tag, h, e⟩ := resolve_cases s q <;> rw [e]
  · exact resolve_empty (s.setGate v) q h
  · exact resolve_filled (s.setGate v) q h

theorem acknowledge_setGate (v : Bool) (s : State) (q : SeqNum) (code : Byte) :
    (s.setGate v).acknowledge q code = (s.acknowledge q code).setGate v :=
  congrArg (State.emit (.response q code)) (resolve_setGate v s q)

/-- R231: no operation but those of the receive port, the two that write the gate and `RESET` reads or writes it. -/
theorem exec_setGate {i : Instr} (hchunk : ∀ c, i ≠ .chunk c) (hbyte : ∀ b last, i ≠ .byte b last)
    (hrxEn : i ≠ .rxEn) (hrxDis : i ≠ .rxDis) (hreset : i ≠ .reset) (v : Bool) (s : State) :
    exec i (s.setGate v) = mapNext (State.setGate v) (exec i s) := by
  cases i with
  | chunk c => exact absurd rfl (hchunk c)
  | byte b last => exact absurd rfl (hbyte b last)
  | rxEn => exact absurd rfl hrxEn
  | rxDis => exact absurd rfl hrxDis
  | reset => exact absurd rfl hreset
  | ackRes q => exact congrArg Host.Outcome.next (resolve_setGate v s q)
  | ackFrm _ _ q code _ => exact congrArg Host.Outcome.next (acknowledge_setGate v s q code)
  | route =>
    exact execRoute_comm (g := State.setGate v) (fun _ => rfl) (fun _ => rfl) (fun _ _ => rfl)
      (fun s q code => (acknowledge_setGate v s q code).symm) (fun _ _ => rfl) (fun _ => rfl) s
  | _ => rfl

/-- Settles O53: a shut gate drops a chunk, the operations that write the gate do not read it, and the rest neither
read nor write it. -/
theorem onlyTheReceivePortIsMasked : Obligations.OnlyTheReceivePortIsMasked := by
  refine ⟨shutGateDiscardsTheChunk, ?writers, fun i v s hchunk hbyte hrxEn hrxDis hreset => ?rest⟩
  case writers => rintro i s (rfl | rfl | rfl) <;> rfl
  case rest => exact exec_setGate hchunk hbyte hrxEn hrxDis hreset v s

/-! ### What completes -/

theorem exec_decodeCommand_completes (w : CommandWord) (s : State) : ∃ t, exec (decodeCommand w) s = .next t := by
  unfold decodeCommand
  split <;> exact ⟨_, rfl⟩

theorem exec_lengthRow_completes {b : Byte} {i : Instr} (h : decodeLength b = some i) (s : State) :
    ∃ t, exec i s = .next t := by
  obtain e | e := exec_lengthRow h s <;> exact ⟨_, e⟩

theorem exec_decodeFrame_completes {cfg : Config} {p : Frame} {i : Instr} (h : decodeFrame cfg p = .ok i)
    (s : State) : ∃ t, exec i s = .next t := by
  obtain ⟨_, _, _, _, _, -, -, rfl⟩ | ⟨_, _, _, -, -, -, rfl⟩ := decodeFrame_cases h <;> exact ⟨_, rfl⟩

/-- R37, R161: a well-formed frame at the head of the queue has a row, which the router executes. -/
theorem exec_route_completes {p : Frame} {rest : List Frame} (hq : s.frmQ = p :: rest)
    (hp : frameOk s.cfg p = true) : ∃ t, exec .route s = .next t := by
  obtain ⟨i, hd⟩ := decodeFrame_of_frameOk hp
  rw [routeExecutesTheFrameRow s p rest i hq hd]
  exact exec_decodeFrame_completes hd _

/-- R83, R84: the requests that the ports can express. A run of transfers must be a chunk, and the tag of a command
word must have `TAG_W` bits (log entry 2). -/
def Request.Expressible (cfg : Config) : Request → Prop
  | .rxChunk run => ∃ c, decode cfg (.rxc run) = .ok (.chunk c)
  | .command w => w.tag.fits cfg = true
  | _ => True

/-- R220: what a request presents, if anything, decodes to an operation that completes. -/
theorem presented_completes {r : Request} {e : Encoded} (hqueue : s.queueOk = true) (hr : r.Expressible s.cfg)
    (hp : presented r s = some (e, t)) : ∃ i, decode t.cfg e = .ok i ∧ ∃ u, exec i t = .next u := by
  have hhead {p : Frame} {rest : List Frame} (hq : s.frmQ = p :: rest) : frameOk s.cfg p = true :=
    (queueOk_iff s).1 hqueue p (by simp [hq])
  cases r with
  | rxChunk run =>
    cases hp
    obtain ⟨c, hd⟩ := hr
    exact ⟨_, hd, _, rfl⟩
  | rxTransfer _ => cases hp; exact ⟨_, rfl, _, rfl⟩
  | command w => cases hp; exact ⟨_, Laws.decode_op hr, exec_decodeCommand_completes w s⟩
  | routerTurn =>
    cases hq : s.frmQ with
    | nil => simp [presented, routerForm, hq] at hp
    | cons p rest =>
      cases (presented_routerTurn (by simp [hq])).symm.trans hp
      exact ⟨_, rfl, exec_route_completes hq (hhead hq)⟩
  | resetInput b =>
    simp only [presented] at hp
    split at hp
    case isTrue hb => cases hp; exact ⟨.reset, if_pos hb, _, rfl⟩
    case isFalse => cases hp
  | inspection =>
    cases hb : s.buf with
    | nil => cases (presented_inspection_nil hb).symm.trans hp; exact ⟨_, rfl, _, rfl⟩
    | cons b body =>
      cases (presented_inspection_cons hb).symm.trans hp
      obtain ⟨i, hrow⟩ := Option.isSome_iff_exists.1 (decodeLength_isSome b)
      exact ⟨i, decode_lb_eq_ok_iff.2 hrow, exec_lengthRow_completes hrow s⟩
  | frameInHand =>
    cases hq : s.frmQ with
    | nil => simp [presented, hq] at hp
    | cons p rest =>
      cases (presented_frameInHand hq).symm.trans hp
      obtain ⟨i, hd⟩ := decodeFrame_of_frameOk (hhead hq)
      exact ⟨i, hd, exec_decodeFrame_completes hd _⟩

/-- R220: the same of a fetch, which takes a request off the list or is the router's own turn. -/
theorem fetch_completes {e : Encoded} (hqueue : s.queueOk = true)
    (hreq : ∀ r rest, s.inputs = r :: rest → r.Expressible s.cfg) (hf : fetch s = some (e, t)) :
    ∃ i, decode t.cfg e = .ok i ∧ ∃ u, exec i t = .next u := by
  cases hin : s.inputs with
  | nil => exact presented_completes (r := .routerTurn) hqueue trivial ((fetch_of_no_request hin).symm.trans hf)
  | cons r rest =>
    rw [fetch_of_request hin] at hf
    exact presented_completes (s := { s with inputs := rest }) hqueue (hreq r rest hin) hf

/-- Settles O56: a fetch finds nothing to execute, and the step passes it over, or it finds an operation that
completes. -/
theorem noInputStopsTheBlock : Obligations.NoInputStopsTheBlock := by
  intro s h hrun hcommand
  obtain ⟨-, hqueue, -⟩ := (inv_iff s).1 h
  have hreq : ∀ r rest, s.inputs = r :: rest → r.Expressible s.cfg := by
    intro r rest hin
    cases r with
    | rxChunk run => exact hrun run rest hin
    | command w => exact hcommand w rest hin
    | _ => trivial
  cases hf : fetch s with
  | none => exact ⟨idleNext s, by simp [step, hf]⟩
  | some fetched =>
    obtain ⟨e, s'⟩ := fetched
    obtain ⟨i, hd, t, ht⟩ := fetch_completes hqueue hreq hf
    exact ⟨t, (step_of_fetch hf hd).trans ht⟩

end Sys2Proof.Machine
end

section
/-! Draining the frame queue (70_reset_and_hazards.md): with no request to come each step is the router's own turn (log
entry 4) and takes one frame. -/

namespace Sys2Proof.Machine

variable {s : State}

/-- R266: with no request to come and a frame queued, a step is a turn of the router that completes. It takes the head
of the queue and does the rest through the table and the history. -/
theorem step_of_own_turn (h : s.inv = true) (hin : s.inputs = []) {p : Frame} {rest : List Frame}
    (hq : s.frmQ = p :: rest) : ∃ ack events, step s = .next ((s.setQueue rest).answered ack events) := by
  obtain ⟨-, hqueue, -⟩ := (inv_iff s).1 h
  have hp : frameOk s.cfg p = true := (queueOk_iff s).1 hqueue p (by simp [hq])
  have hturn : step s = exec .route s :=
    step_of_fetch ((fetch_of_no_request hin).trans (routerForm_of_queued (by simp [hq]))) rfl
  obtain ⟨t, ht⟩ := exec_route_completes hq hp
  obtain ⟨p', rest', ack, events, hq', rfl⟩ := execRoute_answered ht
  obtain ⟨rfl, rfl⟩ := List.cons.inj (hq.symm.trans hq')
  exact ⟨ack, events, hturn.trans ht⟩

/-- Settles O60, by induction on the queue: one turn of the router for each frame, and the invariant keeps the frames
behind it well formed. -/
theorem queuedFramesAreDrained : Obligations.QueuedFramesAreDrained := by
  intro s h hin
  induction hq : s.frmQ generalizing s with
  | nil => exact ⟨s, rfl, hq, by rw [← hq]⟩
  | cons p rest ih =>
    obtain ⟨ack, events, hstep⟩ := step_of_own_turn h hin hq
    obtain ⟨t, hsteps, hempty, ht⟩ := ih _ (everyStepKeepsTheInvariant _ _ h hstep) hin rfl
    exact ⟨t, ⟨_, hstep, hsteps⟩, hempty, ht⟩

end Sys2Proof.Machine
end
